-- ==== Sys2Proof/Word.lean ====
section
/-! DEFINITION. The two widths the spec uses: bytes on the bus (rule R52) and request words on the request port (rule R70). -/

namespace Sys2Proof

/-- One byte: a transmitted byte, a logical byte, or an operand field (rules R7, R52, R71). -/
abbrev Byte := BitVec 8

/-- One request word `REQ[31:0]` (rule R70). -/
abbrev ReqWord := BitVec 32

end Sys2Proof
end

