-- ==== Sys2Proof/Config.lean ====
section
/-! DEFINITION. What an implementation fixes (rule R5) and the free values (rules R54, R220). The OPEN parameters and the
free values have no body: a statement about them holds whatever they are. -/

namespace Sys2Proof

/-- The transport's answer to one write or probe (rule R54); `true` of `isReady` is `ok`. -/
inductive Answer where
  | ok
  | fail
  deriving DecidableEq, Repr, Inhabited

/-- `MAX_COLUMNS`, the largest column count BEGIN accepts (rule R5, decision D6). DESIGN CHOICE of the spec: log 18. -/
def Config.maxColumns : Nat := 40

/-- `MAX_ROWS` (rule R5). -/
def Config.maxRows : Nat := 4

/-- The decided default of `PROBE_AT_BEGIN` (rule R5, decision D10); the machine reads the field `probeAtBegin` of its
state, which holds this value at reset. DESIGN CHOICE: log 4. -/
def Config.probeAtBeginDefault : Bool := true

/-- `DEV_ADDR7`, OPEN, in 0..127 (rule R5). Log 3. -/
opaque Config.devAddr7 : BitVec 7

/-- `DEV_ADDR8 = DEV_ADDR7 << 1`, bit 0 (read/write) low (rule R51). -/
def Config.devAddr8 : Byte := Config.devAddr7.setWidth 8 <<< 1

/-- `T_4BIT_MS`, OPEN, at least 0 (rule R5). Log 3. -/
opaque Config.t4BitMs : Nat

/-- How far the OPEN `T_EN_SETTLE` lies above its least value. Log 3. -/
opaque Config.tEnSettleExcess : Nat

/-- `T_EN_SETTLE`, OPEN, above 0 (rule R5). -/
def Config.tEnSettleMs : Nat := Config.tEnSettleExcess + 1

/-- `T_STR_SETTLE`, OPEN, at least 0 (rule R5). Log 3. -/
opaque Config.tStrSettleMs : Nat

/-- FREE VALUE: the transport's answer to the n-th draw, where no answer is lined up (rule R54). Log 5. -/
opaque Config.transportAnswer : Nat → Answer

/-- FREE VALUE: whether a write the transport had when reset arrived reached the display (rule R220, U5). Log 12. -/
opaque Config.cutWriteReaches : Nat → Bool

end Sys2Proof
end

