-- ==== Sys2Proof/Syntax.lean ====
section
/-! DEFINITION. The instructions: one constructor per row of spec/opcode_table.json (six request words of rule R70, nine
emitted controller commands of rule R77), and the two encoded forms. -/

namespace Sys2Proof

/-- One constructor per row of the opcode table. -/
inductive Instr where
  /-- BEGIN cols, rows (rule R120). -/
  | beginInit (cols rows : Byte)
  /-- CLEAR (rule R141). -/
  | clear
  /-- HOME (rule R142). -/
  | home
  /-- SET_CURSOR col, row (rule R144). -/
  | setCursor (col row : Byte)
  /-- PUT_CHAR byte (rule R150). -/
  | putChar (char : Byte)
  /-- STRING_END (rule R152). -/
  | stringEnd
  /-- FS_8BIT_NIBBLE: the lone 8-bit function-set nibble 0x30 of step (a) (rules R77, R122). -/
  | fs8BitNibble
  /-- FS_4BIT_NIBBLE: the lone switch-to-4-bit nibble 0x20 of step (b) (rules R77, R123). -/
  | fs4BitNibble
  /-- CMD_FUNCTION_SET, byte 0x28 (rules R77, R124). -/
  | cmdFunctionSet
  /-- CMD_DISPLAY_OFF, byte 0x08 (rules R77, R124). -/
  | cmdDisplayOff
  /-- CMD_CLEAR, byte 0x01 (rules R77, R124, R141). -/
  | cmdClear
  /-- CMD_ENTRY_MODE, byte 0x06 (rules R77, R124). -/
  | cmdEntryMode
  /-- CMD_DISPLAY_ON, byte 0x0C (rules R77, R124). -/
  | cmdDisplayOn
  /-- CMD_HOME, byte 0x02 (rules R77, R142). -/
  | cmdHome
  /-- CMD_SET_DDRAM a, byte `0x80 | a` with `a` a 7-bit DDRAM address (rules R77, R147). -/
  | cmdSetDdram (addr : BitVec 7)
  deriving DecidableEq, Repr

/-- An encoded instruction: a request word of the request port (rule R70), or an emitted controller command byte (rule
R77). -/
inductive Code where
  | request (w : ReqWord)
  | command (b : Byte)
  deriving DecidableEq, Repr

/-- The rows that the host may present on the request port (rule R70); the others are only emitted (rule R77). -/
def Instr.isRequest : Instr → Bool
  | .beginInit _ _ => true
  | .clear => true
  | .home => true
  | .setCursor _ _ => true
  | .putChar _ => true
  | .stringEnd => true
  | .fs8BitNibble => false
  | .fs4BitNibble => false
  | .cmdFunctionSet => false
  | .cmdDisplayOff => false
  | .cmdClear => false
  | .cmdEntryMode => false
  | .cmdDisplayOn => false
  | .cmdHome => false
  | .cmdSetDdram _ => false

end Sys2Proof
end

