-- ==== Sys2Proof/Machine/State.lean ====
section
/-! DEFINITION. The block's state (rule R20) with the model's own inputs and observation beside it, the reasons a step can
stop, and the state after reset (rules R34, R222). -/

namespace Sys2Proof.Machine

/-- The initialization state machine's states (rule R21). -/
inductive Fsm where
  | uninit
  | initializing
  | ready
  | faulted
  deriving DecidableEq, Repr

/-- The recorded cause of a fault (rules R30, R192). -/
inductive FaultCause where
  | none
  | writeFail
  | probeFail
  deriving DecidableEq, Repr

/-- Where a wait comes from (rules R8, R224). Its length is `WaitKind.minMs`, a function of the kind (log 2). -/
inductive WaitKind where
  | init1
  | init2
  | init3
  | fourBit
  | en
  | cmd
  | data
  | str
  deriving DecidableEq, Repr

/-- One event of an expansion (rule R27). -/
inductive Event where
  /-- `BusWrite(b)` to `DEV_ADDR8` (rule R52). -/
  | write (b : Byte)
  /-- `BusProbe()` of `DEV_ADDR8` (rule R55). -/
  | probe
  /-- A wait of at least the kind's length (rule R60). -/
  | wait (kind : WaitKind)
  deriving DecidableEq, Repr

/-- One entry of the trace: an emitted event with its result (rule R65). -/
inductive Traced where
  | write (b : Byte) (result : Answer)
  | probe (result : Answer)
  | wait (kind : WaitKind)
  /-- A write that the transport had when reset arrived and that reached the display; no answer was taken (rule R220, U5;
  log 12). -/
  | cut (b : Byte)
  deriving DecidableEq, Repr

/-- The block state of rule R20, and after it the model's own fields. -/
structure State where
  /-- Rule R21. -/
  fsm : Fsm
  /-- Geometry columns, none until the first BEGIN (rule R22). -/
  cols : Option Byte
  /-- Geometry rows, none until the first BEGIN (rule R22). -/
  rows : Option Byte
  /-- The events of the current request not yet performed (rule R27). -/
  seq : List Event
  /-- The `fsm` value taken when `seq` becomes empty (rule R28). -/
  post : Fsm
  /-- Rule R30. -/
  faultCause : FaultCause
  /-- The byte whose write failed, 0 otherwise (rule R30). -/
  faultByte : Byte
  /-- The model-only mark of rule R32. -/
  refused : Bool
  /-- Parameter `PROBE_AT_BEGIN` as data; no step writes it (rules R5, R121; log 4). -/
  probeAtBegin : Bool
  /-- The request words the host presents, oldest first (rules R70, R81; log 7). -/
  requests : List ReqWord
  /-- The reset input, a pulse taken by the next step (rule R220; log 11). -/
  resetLine : Bool
  /-- The transport's answers lined up, oldest first (rule R54; log 5). -/
  answers : List Answer
  /-- How many draws were made: the argument of the free values (rules R54, R220; log 5). -/
  draws : Nat
  /-- The emitted events with their results, oldest first (rule R65; log 19). -/
  trace : List Traced
  /-- The transmitter's command latch, set by no request and no step (log 8). -/
  cmdIn : Option Byte
  deriving DecidableEq, Repr

/-- Why a step stops with a fault. Both are SAFE: they stand for states that the spec says no run reaches, and an
invariant (`State.Inv`) rules them out. -/
inductive Fault where
  /-- Raised by every request's meaning when `fsm = INITIALIZING` while the port is ready, which rule R82 calls not
  reachable. Safe: the model stops where the spec gives no effect (log 15). -/
  | initializingIdle
  /-- Raised by SET_CURSOR when READY holds no legal geometry, which rule R22 rules out. Safe: the model stops where the
  spec gives no effect (log 16). -/
  | noGeometry
  deriving DecidableEq, Repr

/-- Why a step gives an instruction no meaning. -/
inductive Refusal where
  /-- Raised by `exec` alone, in the arm of an instruction that has no meaning yet; no arm does. Safe: the model stops. -/
  | notModelled (mnemonic : String)
  deriving DecidableEq, Repr

/-- What every meaning and every step answers. -/
abbrev Result := Host.Outcome State Fault Refusal

/-- The machine after reset: rule R34's values, `refused = false` and an empty trace as in rule R222, no request presented,
and the decided default of `PROBE_AT_BEGIN` (log 4, log 6, log 13). -/
def State.reset : State where
  fsm := .uninit
  cols := none
  rows := none
  seq := []
  post := .uninit
  faultCause := .none
  faultByte := 0
  refused := false
  probeAtBegin := Config.probeAtBeginDefault
  requests := []
  resetLine := false
  answers := []
  draws := 0
  trace := []
  cmdIn := none

end Sys2Proof.Machine
end

