-- ==== Sys2Proof/Machine/Operands.lean ====
section
/-! DEFINITION. The operand forms: the geometry (rules R22, R82), the row-offset table (rule R24), the DDRAM address
calculator (rules R143 to R147), and the controller command bytes (rules R76, R77). -/

namespace Sys2Proof.Machine

/-- The geometries BEGIN accepts (rules R22, R82). -/
def geometryLegal (cols rows : Byte) : Bool :=
  decide (1 ≤ cols.toNat) && decide (cols.toNat ≤ Config.maxColumns)
    && decide (1 ≤ rows.toNat) && decide (rows.toNat ≤ Config.maxRows)

/-- The geometry register as the calculator reads it: columns and rows, where it holds a legal geometry (rule R22). -/
def State.geometry (s : State) : Option (Byte × Byte) :=
  match s.cols, s.rows with
  | some c, some r => if geometryLegal c r then some (c, r) else none
  | _, _ => none

/-- The row-offset table, a 2-bit index to a 7-bit base (rules R24, R50). -/
def rowOffset (index : BitVec 2) : BitVec 7 :=
  if index = 0 then 0x00 else if index = 1 then 0x40 else if index = 2 then 0x14 else 0x54

/-- Saturation of a coordinate to `[0, bound - 1]` (rule R145); the lower bound never acts. -/
def clampTo (v bound : Byte) : Nat := min v.toNat (bound.toNat - 1)

/-- The DDRAM address calculator (rules R143, R146): clamped row to the table, plus the clamped column, modulo 128. -/
def ddramAddr (col row cols rows : Byte) : BitVec 7 :=
  rowOffset (BitVec.ofNat 2 (clampTo row rows)) + BitVec.ofNat 7 (clampTo col cols)

/-- Entry mode set, `0x04 | ID<<1 | S` (rule R76). PRESUMED (general knowledge, G1): log 17, as all the bytes below. -/
def entryMode (increment shift : Bool) : Byte := 1#6 ++ BitVec.ofBool increment ++ BitVec.ofBool shift

/-- Display control, `0x08 | D<<2 | Cu<<1 | Bl` (rule R76). -/
def displayControl (display cursor blink : Bool) : Byte :=
  1#5 ++ BitVec.ofBool display ++ BitVec.ofBool cursor ++ BitVec.ofBool blink

/-- Function set, `0x20 | DL<<4 | N<<3 | F<<2` (rule R76). -/
def functionSet (eightBit twoLine font5x10 : Bool) : Byte :=
  1#3 ++ BitVec.ofBool eightBit ++ BitVec.ofBool twoLine ++ BitVec.ofBool font5x10 ++ 0#2

/-- `FS_8BIT`, the 8-bit function-set nibble, in the high half (rules R77, R122). -/
def fs8BitByte : Byte := functionSet true false false

/-- `FS_4BIT`, the switch-to-4-bit nibble, in the high half (rules R77, R123). -/
def fs4BitByte : Byte := functionSet false false false

/-- `CMD_FUNCTION_SET`: 4-bit interface, 2 lines, 5×8 font (rule R77). -/
def functionSetByte : Byte := functionSet false true false

/-- `CMD_DISPLAY_OFF` (rule R77). -/
def displayOffByte : Byte := displayControl false false false

/-- `CMD_CLEAR` (rules R76, R77). -/
def clearByte : Byte := 0x01

/-- `CMD_ENTRY_MODE`: left to right, no display shift (rule R77). -/
def entryModeByte : Byte := entryMode true false

/-- `CMD_DISPLAY_ON`: cursor and blink disabled (rule R77). -/
def displayOnByte : Byte := displayControl true false false

/-- `CMD_HOME` (rules R76, R77). -/
def homeByte : Byte := 0x02

/-- `CMD_SET_DDRAM(a)` (rules R77, R147). -/
def setDdramByte (addr : BitVec 7) : Byte := 0x80#8 ||| addr.setWidth 8

end Sys2Proof.Machine
end

