-- ==== Sys2Proof/Machine/Nibble.lean ====
section
/-! DEFINITION. The nibble protocol: frames, the nibble pulse, command bytes and data bytes (rules R100 to R104), and the
length of each wait (rule R224). -/

namespace Sys2Proof.Machine

/-- The mode flag of a frame (rules R26, R53). -/
inductive Mode where
  | command
  | data
  deriving DecidableEq, Repr

/-- The mode bit RS in bit 0: 1 data, 0 command (rule R53). -/
def rsBit : Mode → Byte
  | .command => 0x00
  | .data => 0x01

/-- The backlight bit, always 1 (rules R25, R53). -/
def backlightBit : Byte := 0x08

/-- The enable bit (rules R53, R74). -/
def enableBit : Byte := 0x04

/-- `frame(v, rs)`: the transmitted byte of one nibble without the enable bit (rule R100). -/
def frame (v : Byte) (m : Mode) : Byte := (v &&& 0xF0#8) ||| backlightBit ||| rsBit m

/-- `NIB(v, rs)`: one nibble, latched by the enable pulse (rule R101). -/
def nib (v : Byte) (m : Mode) : List Event :=
  [.write (frame v m ||| enableBit), .wait .en, .write (frame v m &&& ~~~enableBit)]

/-- The high nibble of a logical byte (rule R102). -/
def hi (b : Byte) : Byte := b &&& 0xF0#8

/-- The low nibble, shifted into high position (rule R102). -/
def lo (b : Byte) : Byte := (b <<< 4) &&& 0xF0#8

/-- `CMD(b)`: one command byte (rule R103). -/
def cmdEvents (b : Byte) : List Event := nib (hi b) .command ++ nib (lo b) .command ++ [.wait .cmd]

/-- `DATA(b)`: one data byte (rule R104). -/
def dataEvents (b : Byte) : List Event := nib (hi b) .data ++ nib (lo b) .data ++ [.wait .data]

/-- The minimum of each wait, in milliseconds (rules R5, R224). -/
def waitMinMs : WaitKind → Nat
  | .init1 => 50
  | .init2 => 5
  | .init3 => 5
  | .fourBit => Config.t4BitMs
  | .en => Config.tEnSettleMs
  | .cmd => 2
  | .data => 1
  | .str => Config.tStrSettleMs

/-- The least time of one event that the spec gives: a wait's minimum; bus time is not given (rules R228, R229). -/
def eventMinMs : Event → Nat
  | .write _ => 0
  | .probe => 0
  | .wait k => waitMinMs k

/-- The least time of a sequence (rule R228). -/
def seqMinMs : List Event → Nat
  | [] => 0
  | e :: es => eventMinMs e + seqMinMs es

end Sys2Proof.Machine
end

