-- ==== Sys2Proof/Machine/Flags.lean ====
section
/-! DEFINITION. What the block shows of its state: STATUS (rule R31), `busy` (rule R29), port readiness (rule R81), and
the observation of a run (rule R65). -/

namespace Sys2Proof.Machine

/-- The encoding of `fsm` on the status port (rule R21). -/
def fsmCode : Fsm → BitVec 2
  | .uninit => 0
  | .initializing => 1
  | .ready => 2
  | .faulted => 3

/-- The encoding of the fault cause (rule R30). -/
def causeCode : FaultCause → BitVec 2
  | .none => 0
  | .writeFail => 1
  | .probeFail => 2

/-- `busy`, which is `seq ≠ []` (rule R29). -/
def State.busy (s : State) : Bool := !s.seq.isEmpty

/-- `FATAL`, which is `fsm = FAULTED` (rule R31). -/
def State.fatal (s : State) : Bool := decide (s.fsm = .faulted)

/-- The status word `STATUS[15:0]`: FBYTE, two zeros, CAUSE, FATAL, BUSY, STATE (rule R31). -/
def State.status (s : State) : BitVec 16 :=
  s.faultByte.setWidth 16 <<< 8 ||| (causeCode s.faultCause).setWidth 16 <<< 4
    ||| (BitVec.ofBool s.fatal).setWidth 16 <<< 3 ||| (BitVec.ofBool s.busy).setWidth 16 <<< 2
    ||| (fsmCode s.fsm).setWidth 16

/-- The request port is ready (rule R81). -/
def State.portReady (s : State) : Bool := s.seq.isEmpty && !s.fatal

/-- The bus address of a traced event: every write and probe goes to `DEV_ADDR8` (rules R51, R65). -/
def Traced.busAddress : Traced → Option Byte
  | .write _ _ => some Config.devAddr8
  | .probe _ => some Config.devAddr8
  | .wait _ => none
  | .cut _ => some Config.devAddr8

/-- What can be observed of a run: the trace, STATUS and port readiness (rule R65). -/
structure Observation where
  trace : List Traced
  status : BitVec 16
  portReady : Bool
  deriving DecidableEq, Repr

/-- The observation of a state (rule R65). -/
def State.observe (s : State) : Observation where
  trace := s.trace
  status := s.status
  portReady := s.portReady

end Sys2Proof.Machine
end

