-- ==== Sys2Proof/Machine/Ops.lean ====
section
/-! DEFINITION. The named operations over the state: refusal (rule R80), acceptance (rules R82, R120, R140), emitting an
event and taking the transport's answer (rules R54, R56), entering the fatal state (rule R191) and leaving it by reset
(rules R196, R220). -/

namespace Sys2Proof.Machine

/-- `refuse`: the refusal mark is set and nothing else changes (rules R32, R80). -/
def State.refuse (s : State) : State := { s with refused := true }

/-- Record an emitted event at the end of the trace (rule R65). -/
def State.emit (s : State) (t : Traced) : State := { s with trace := s.trace ++ [t] }

/-- Write the geometry register (rules R22, R120). -/
def State.setGeometry (s : State) (c r : Byte) : State := { s with cols := some c, rows := some r }

/-- Load an accepted request's expansion, with the `fsm` value its completion writes (rules R27, R28). -/
def State.load (s : State) (post : Fsm) (events : List Event) : State := { s with post := post, seq := events }

/-- Drop the head of `seq`, performed (rule R56). -/
def State.advance (s : State) : State := { s with seq := s.seq.tail }

/-- The transport's next answer: the one lined up, else a free value (rule R54). -/
def State.nextAnswer (s : State) : Answer :=
  match s.answers with
  | a :: _ => a
  | [] => Config.transportAnswer s.draws

/-- One answer is taken. -/
def State.takeAnswer (s : State) : State := { s with answers := s.answers.tail, draws := s.draws + 1 }

/-- TAKING THE EXCEPTION: `raise BusError(cause, byte)` (rule R191). The block has no other exception (rule R190). -/
def State.busError (s : State) (cause : FaultCause) (byte : Byte) : State :=
  { s with fsm := .faulted, seq := [], faultCause := cause, faultByte := byte }

/-- The write the transport may have when reset arrives: the head of `seq`, where it is one (rule R220). -/
def State.pendingWrite (s : State) : Option Byte :=
  match s.seq with
  | .write b :: _ => some b
  | _ => none

/-- A write in flight at reset may or may not reach the display: a draw (rule R220, U5; log 12). -/
def State.cutWrite (s : State) : State :=
  match s.pendingWrite with
  | some b =>
      { s with trace := if Config.cutWriteReaches s.draws then s.trace ++ [.cut b] else s.trace, draws := s.draws + 1 }
  | none => s

/-- The reset values of rule R34; `refused` and the model's other fields are kept. -/
def State.clearForReset (s : State) : State :=
  { s with
    fsm := .uninit, cols := none, rows := none, seq := [], post := .uninit, faultCause := .none, faultByte := 0,
    resetLine := false, cmdIn := none }

/-- LEAVING THE FATAL STATE, or any other: the reset input (rules R196, R220). -/
def State.takeReset (s : State) : State := s.cutWrite.clearForReset

/-- The last line of rule R56: an emptied sequence writes `post`, unless the block is FAULTED. -/
def State.finish (s : State) : State :=
  if s.seq = [] ∧ s.fsm ≠ .faulted then { s with fsm := s.post } else s

/-- The effect of a transport answer to the head event (rules R56, R191). -/
def State.answered (s : State) (a : Answer) (cause : FaultCause) (byte : Byte) : State :=
  match a with
  | .ok => s.advance
  | .fail => s.busError cause byte

/-- `step_event` (rule R56): perform the head event of `seq`. -/
def State.performEvent (s : State) : State :=
  match s.seq with
  | [] => s
  | .wait k :: _ => ((s.emit (.wait k)).advance).finish
  | .write b :: _ => (((s.emit (.write b s.nextAnswer)).takeAnswer).answered s.nextAnswer .writeFail b).finish
  | .probe :: _ => (((s.emit (.probe s.nextAnswer)).takeAnswer).answered s.nextAnswer .probeFail 0).finish

/-- Admission of a request (rules R81, R82): held while the port is not ready, else by the row of rule R82's table for
`fsm`. The first argument is the UNINIT row, the second the READY row; the INITIALIZING row is not reachable (log 15). -/
def acceptRequest (inUninit inReady : State → Result) (s : State) : Result :=
  if s.portReady then
    match s.fsm with
    | .uninit => inUninit s
    | .ready => inReady s
    | .initializing => .fault .initializingIdle
    | .faulted => .next s
  else .next s

/-- Refused, as every Ready-state request is in UNINIT (rules R80, R82). -/
def refuseRequest (s : State) : Result := .next s.refuse

/-- A Ready-state request accepted: its expansion is loaded and `post` is READY (rule R140). -/
def loadReady (events : List Event) (s : State) : Result := .next (s.load .ready events)

/-- A Ready-state request whose expansion reads no state (rules R82, R140). -/
def acceptReady (events : List Event) (s : State) : Result := acceptRequest refuseRequest (loadReady events) s

/-- An emitted command run alone: its events go into `seq`, no other state is written (rules R101, R103), and a FAULTED
block emits no event (rule R191). DESIGN CHOICE: log 9. -/
def sendEvents (events : List Event) (s : State) : Result :=
  if s.fatal then .next s else .next { s with seq := s.seq ++ events }

end Sys2Proof.Machine
end

