-- ==== Sys2Proof/Machine/Commands.lean ====
section
/-! DEFINITION. The emitted controller commands run alone (rule R77): each sends its nibble or its byte in command mode
through the nibble protocol (rules R101, R103). Log 8 and log 9. -/

namespace Sys2Proof.Machine

/-- FS_8BIT_NIBBLE: `NIB(0x30, 0)` (rules R77, R122). -/
def execFs8BitNibble (s : State) : Result := sendEvents (nib fs8BitByte .command) s

/-- FS_4BIT_NIBBLE: `NIB(0x20, 0)` (rules R77, R123). -/
def execFs4BitNibble (s : State) : Result := sendEvents (nib fs4BitByte .command) s

/-- CMD_FUNCTION_SET: `CMD(0x28)` (rules R77, R124). -/
def execCmdFunctionSet (s : State) : Result := sendEvents (cmdEvents functionSetByte) s

/-- CMD_DISPLAY_OFF: `CMD(0x08)` (rules R77, R124). -/
def execCmdDisplayOff (s : State) : Result := sendEvents (cmdEvents displayOffByte) s

/-- CMD_CLEAR: `CMD(0x01)` (rules R77, R124, R141). -/
def execCmdClear (s : State) : Result := sendEvents (cmdEvents clearByte) s

/-- CMD_ENTRY_MODE: `CMD(0x06)` (rules R77, R124). -/
def execCmdEntryMode (s : State) : Result := sendEvents (cmdEvents entryModeByte) s

/-- CMD_DISPLAY_ON: `CMD(0x0C)` (rules R77, R124). -/
def execCmdDisplayOn (s : State) : Result := sendEvents (cmdEvents displayOnByte) s

/-- CMD_HOME: `CMD(0x02)` (rules R77, R142). -/
def execCmdHome (s : State) : Result := sendEvents (cmdEvents homeByte) s

/-- CMD_SET_DDRAM a: `CMD(0x80 | a)` (rules R77, R147). -/
def execCmdSetDdram (addr : BitVec 7) (s : State) : Result := sendEvents (cmdEvents (setDdramByte addr)) s

end Sys2Proof.Machine
end

