-- ==== Sys2Proof/Machine/Display.lean ====
section
/-! DEFINITION. The Ready-state requests (rules R140 to R152). -/

namespace Sys2Proof.Machine

/-- CLEAR: `CMD(0x01)` (rule R141). -/
def execClear (s : State) : Result := acceptReady (cmdEvents clearByte) s

/-- HOME: `CMD(0x02)` (rule R142). -/
def execHome (s : State) : Result := acceptReady (cmdEvents homeByte) s

/-- The expansion of SET_CURSOR on a geometry (rules R144, R147). -/
def setCursorEvents (col row cols rows : Byte) : List Event :=
  cmdEvents (setDdramByte (ddramAddr col row cols rows))

/-- SET_CURSOR accepted: the calculator reads the geometry, which every READY block holds (rule R22); one that held none
would stop (log 16). -/
def loadSetCursor (col row : Byte) (s : State) : Result :=
  match s.geometry with
  | some (cols, rows) => loadReady (setCursorEvents col row cols rows) s
  | none => .fault .noGeometry

/-- SET_CURSOR col, row (rules R82, R144). -/
def execSetCursor (col row : Byte) (s : State) : Result := acceptRequest refuseRequest (loadSetCursor col row) s

/-- PUT_CHAR byte: `DATA(B)` (rule R150). -/
def execPutChar (char : Byte) (s : State) : Result := acceptReady (dataEvents char) s

/-- STRING_END: the trailing wait (rule R152). -/
def execStringEnd (s : State) : Result := acceptReady [.wait .str] s

end Sys2Proof.Machine
end

