-- ==== Sys2Proof/Machine/Init.lean ====
section
/-! DEFINITION. BEGIN and the initialization sequence (rules R120 to R130). -/

namespace Sys2Proof.Machine

/-- Step (a): three 8-bit function-set nibbles with waits of 50, 5 and 5 ms (rule R122). -/
def stepA : List Event :=
  nib fs8BitByte .command ++ [.wait .init1] ++ nib fs8BitByte .command ++ [.wait .init2]
    ++ nib fs8BitByte .command ++ [.wait .init3]

/-- Step (b): the switch-to-4-bit nibble and its wait (rule R123). -/
def stepB : List Event := nib fs4BitByte .command ++ [.wait .fourBit]

/-- Step (c): function set (rule R124). -/
def stepC : List Event := cmdEvents functionSetByte

/-- Step (d): display off (rule R124). -/
def stepD : List Event := cmdEvents displayOffByte

/-- Step (e): clear display (rule R124). -/
def stepE : List Event := cmdEvents clearByte

/-- Step (f): entry mode (rule R124). -/
def stepF : List Event := cmdEvents entryModeByte

/-- Step (g): display on (rule R124). -/
def stepG : List Event := cmdEvents displayOnByte

/-- The probe step (rule R121). -/
def probeStep (probeAtBegin : Bool) : List Event := if probeAtBegin then [.probe] else []

/-- `INIT_SEQ` (rule R125). -/
def initSeq (probeAtBegin : Bool) : List Event :=
  probeStep probeAtBegin ++ stepA ++ stepB ++ stepC ++ stepD ++ stepE ++ stepF ++ stepG

/-- The acceptance effect of BEGIN (rule R120). -/
def beginAccepted (c r : Byte) (s : State) : State :=
  { (s.setGeometry c r).load .ready (initSeq s.probeAtBegin) with fsm := .initializing }

/-- BEGIN at a ready port: accepted for a legal geometry, else refused (rules R80, R82). -/
def tryBegin (c r : Byte) (s : State) : Result :=
  if geometryLegal c r then .next (beginAccepted c r s) else refuseRequest s

/-- BEGIN cols, rows (rules R120, R82). -/
def execBegin (c r : Byte) (s : State) : Result := acceptRequest (tryBegin c r) (tryBegin c r) s

end Sys2Proof.Machine
end

