-- ==== Sys2Proof/Machine/Dispatch.lean ====
section
/-! DEFINITION. The meaning of every instruction, one arm per row of the opcode table. -/

namespace Sys2Proof.Machine

def exec (i : Instr) (s : State) : Host.Outcome State Fault Refusal :=
  match i with
  | .beginInit cols rows => Sys2Proof.Machine.execBegin cols rows s
  | .clear => Sys2Proof.Machine.execClear s
  | .home => Sys2Proof.Machine.execHome s
  | .setCursor col row => Sys2Proof.Machine.execSetCursor col row s
  | .putChar char => Sys2Proof.Machine.execPutChar char s
  | .stringEnd => Sys2Proof.Machine.execStringEnd s
  | .fs8BitNibble => Sys2Proof.Machine.execFs8BitNibble s
  | .fs4BitNibble => Sys2Proof.Machine.execFs4BitNibble s
  | .cmdFunctionSet => Sys2Proof.Machine.execCmdFunctionSet s
  | .cmdDisplayOff => Sys2Proof.Machine.execCmdDisplayOff s
  | .cmdClear => Sys2Proof.Machine.execCmdClear s
  | .cmdEntryMode => Sys2Proof.Machine.execCmdEntryMode s
  | .cmdDisplayOn => Sys2Proof.Machine.execCmdDisplayOn s
  | .cmdHome => Sys2Proof.Machine.execCmdHome s
  | .cmdSetDdram addr => Sys2Proof.Machine.execCmdSetDdram addr s

end Sys2Proof.Machine
end

