-- ==== Sys2Proof/Decode.lean ====
section
/-! DEFINITION. The decoder, total and rejecting by name (rules R72, R77, R79), and after it the encoder written from the
same encodings. -/

namespace Sys2Proof

/-- Why bits are no instruction (rule R79). -/
inductive DecodeError where
  /-- `OP = 0x0` or `OP` in 0x7..0xF. -/
  | reservedOpcode
  /-- A non-zero bit in a field that rule R70's table marks 0, for the named opcode. -/
  | reservedBits (mnemonic : String)
  /-- A byte that is none of the controller commands the block emits (rule R78). -/
  | notEmitted
  deriving DecidableEq, Repr

/-- `REQ[31:28]` (rule R70). -/
def opField (w : ReqWord) : BitVec 4 := w.extractLsb' 28 4

/-- `REQ[27:16]` (rule R70). -/
def highField (w : ReqWord) : BitVec 12 := w.extractLsb' 16 12

/-- `REQ[15:8]` (rules R70, R71). -/
def midField (w : ReqWord) : Byte := w.extractLsb' 8 8

/-- `REQ[7:0]` (rules R70, R71). -/
def lowField (w : ReqWord) : Byte := w.extractLsb' 0 8

/-- Rule R72: the decoder of request words. It does not look at state. -/
def decodeRequest (w : ReqWord) : Except DecodeError Instr :=
  if opField w = 1 then
    if highField w = 0 then .ok (.beginInit (midField w) (lowField w)) else .error (.reservedBits "BEGIN")
  else if opField w = 2 then
    if highField w = 0 ∧ midField w = 0 ∧ lowField w = 0 then .ok .clear else .error (.reservedBits "CLEAR")
  else if opField w = 3 then
    if highField w = 0 ∧ midField w = 0 ∧ lowField w = 0 then .ok .home else .error (.reservedBits "HOME")
  else if opField w = 4 then
    if highField w = 0 then .ok (.setCursor (midField w) (lowField w)) else .error (.reservedBits "SET_CURSOR")
  else if opField w = 5 then
    if highField w = 0 ∧ midField w = 0 then .ok (.putChar (lowField w)) else .error (.reservedBits "PUT_CHAR")
  else if opField w = 6 then
    if highField w = 0 ∧ midField w = 0 ∧ lowField w = 0 then .ok .stringEnd else .error (.reservedBits "STRING_END")
  else .error .reservedOpcode

/-- Rule R77 and the opcode table's rows of emitted commands: which of them a byte is. A whole command byte is looked for
before a lone nibble, whose low four bits are not sent. DEDUCED: log 10. -/
def decodeCommand (b : Byte) : Except DecodeError Instr :=
  if b.getLsbD 7 then .ok (.cmdSetDdram (b.extractLsb' 0 7))
  else if b = 0x28 then .ok .cmdFunctionSet
  else if b = 0x08 then .ok .cmdDisplayOff
  else if b = 0x01 then .ok .cmdClear
  else if b = 0x06 then .ok .cmdEntryMode
  else if b = 0x0C then .ok .cmdDisplayOn
  else if b = 0x02 then .ok .cmdHome
  else if b.extractLsb' 4 4 = 3 then .ok .fs8BitNibble
  else if b.extractLsb' 4 4 = 2 then .ok .fs4BitNibble
  else .error .notEmitted

/-- The decoder of both encoded forms. -/
def decode : Code → Except DecodeError Instr
  | .request w => decodeRequest w
  | .command b => decodeCommand b

/-- The word or byte of each instruction (rules R70, R77, R120, R141, R142, R144, R147, R150, R152). -/
def encode : Instr → Code
  | .beginInit cols rows => .request (0x10000000#32 ||| cols.setWidth 32 <<< 8 ||| rows.setWidth 32)
  | .clear => .request 0x20000000
  | .home => .request 0x30000000
  | .setCursor col row => .request (0x40000000#32 ||| col.setWidth 32 <<< 8 ||| row.setWidth 32)
  | .putChar char => .request (0x50000000#32 ||| char.setWidth 32)
  | .stringEnd => .request 0x60000000
  | .fs8BitNibble => .command 0x30
  | .fs4BitNibble => .command 0x20
  | .cmdFunctionSet => .command 0x28
  | .cmdDisplayOff => .command 0x08
  | .cmdClear => .command 0x01
  | .cmdEntryMode => .command 0x06
  | .cmdDisplayOn => .command 0x0C
  | .cmdHome => .command 0x02
  | .cmdSetDdram addr => .command (0x80#8 ||| addr.setWidth 8)

/-- The word a host presents for a request, where the instruction is one (rule R70). -/
def requestWord (i : Instr) : Option ReqWord :=
  match encode i with
  | .request w => some w
  | .command _ => none

/-- The bits of a row of the opcode table as encoded: 32 for a request word, 8 for an emitted command byte. -/
def tableCode (nbits w : Nat) : Option Code :=
  if nbits = 32 then some (.request (BitVec.ofNat 32 w))
  else if nbits = 8 then some (.command (BitVec.ofNat 8 w))
  else none

/-- What the decoder reads from an instruction whose bits are `w`. -/
def decodeTableWord (nbits w : Nat) : Option Instr :=
  match tableCode nbits w with
  | some c =>
      match decode c with
      | .ok i => some i
      | .error _ => none
  | none => none

end Sys2Proof
end

