-- ==== Sys2Proof/Machine/Fetch.lean ====
section
/-! DEFINITION. What the block does next (rules R56, R80, R81, R191, R220), and how an instruction is placed to be done
next. -/

namespace Sys2Proof.Machine

/-- What the block's next step is. -/
inductive Action where
  /-- The reset input is asserted (rule R220). -/
  | reset
  /-- Nothing can happen: FAULTED (rule R191), or idle with nothing presented. -/
  | hold
  /-- The head event of `seq` is performed (rule R56). -/
  | perform
  /-- An illegal word or byte is consumed and refused, from the state without it (rule R80). -/
  | refuse (s : State)
  /-- A decoded instruction runs, from the state without its word or byte. -/
  | run (i : Instr) (s : State)
  deriving DecidableEq, Repr

/-- A decoded form as an action on the state that no longer holds it. -/
def decoded (d : Except DecodeError Instr) (s : State) : Action :=
  match d with
  | .ok i => .run i s
  | .error _ => .refuse s

/-- An idle block takes its command latch, else the oldest word presented (rule R81; log 7, log 8). -/
def takeNext (s : State) : Action :=
  match s.cmdIn with
  | some b => decoded (decodeCommand b) { s with cmdIn := none }
  | none =>
      match s.requests with
      | w :: ws => decoded (decodeRequest w) { s with requests := ws }
      | [] => .hold

/-- The next action: reset wins over everything, a FAULTED block holds, a busy block performs its next event, an idle one
takes what is presented (rules R56, R81, R191, R220; log 14). -/
def nextAction (s : State) : Action :=
  if s.resetLine then .reset
  else if s.fatal then .hold
  else if s.busy then .perform
  else takeNext s

/-- A request word placed so that it is the next thing taken. -/
def placeRequest (w : ReqWord) (s : State) : State :=
  { s with resetLine := false, seq := [], cmdIn := none, requests := w :: s.requests }

/-- An emitted command byte placed so that it is the next thing taken (log 8). -/
def placeCommand (b : Byte) (s : State) : State :=
  { s with resetLine := false, seq := [], cmdIn := some b }

/-- An encoded instruction placed so that it is the next thing taken. -/
def placeCode (c : Option Code) (s : State) : State :=
  match c with
  | some (.request w) => placeRequest w s
  | some (.command b) => placeCommand b s
  | none => s

end Sys2Proof.Machine
end

