-- ==== Sys2Proof/Machine/Step.lean ====
section
/-! DEFINITION. One step of the block, and the placing of an instruction that the next step takes. -/

namespace Sys2Proof.Machine

/-- One step: a reset, one event, one request or command taken, or nothing (rules R56, R80, R81, R201, R220). -/
def step (s : State) : Host.Outcome State Fault Refusal :=
  match nextAction s with
  | .reset => .next s.takeReset
  | .hold => .next s
  | .perform => .next s.performEvent
  | .refuse s' => .next s'.refuse
  | .run i s' => exec i s'

/-- `s` with the instruction whose bits are `w` presented, so that the next step takes it: a 32-bit request word on the
request port, an 8-bit command byte in the command latch (log 7, log 8). -/
def State.withFetchWord (s : State) (nbits w : Nat) : State := placeCode (tableCode nbits w) s

end Sys2Proof.Machine
end

