-- ==== Sys2Proof/Machine/HostMacros.lean ====
section
/-! DEFINITION. The host-side macros (rules R170 to R175): lists of requests, outside the block (rule R4). Text is a list
of bytes; ASCII codes are general knowledge (G4; log 20). -/

namespace Sys2Proof.Machine

/-- A host string: a list of character bytes (rule R170). -/
abbrev Text := List Byte

/-- ASCII bytes of characters (rule R73). PRESUMED: log 20. -/
def ascii (cs : List Char) : Text := cs.map fun c => BitVec.ofNat 8 c.toNat

/-- The space character 0x20 (rule R172). -/
def spaceByte : Byte := 0x20

/-- SEND_STRING text (rule R170). -/
def sendString (t : Text) : List Instr := t.map .putChar ++ [.stringEnd]

/-- PRINT text (rule R171). -/
def print (t : Text) : List Instr := [.clear, .home] ++ sendString t

/-- The padded or truncated line of rule R172, for `width` columns. -/
def fitLine (width : Nat) (t : Text) : Text :=
  t.take width ++ List.replicate (width - min width t.length) spaceByte

/-- PRINT_LINE row, text on a display of `width` columns (rule R172). -/
def printLine (width : Nat) (row : Byte) (t : Text) : List Instr := .setCursor 0 row :: sendString (fitLine width t)

/-- The ASCII digit of a number below 10 (rule R174). -/
def digitByte (n : Nat) : Byte := 0x30 + BitVec.ofNat 8 n

/-- Decimal digits, most significant first, on fuel. -/
def decDigits : Nat → Nat → Text
  | 0, _ => []
  | fuel + 1, n => if n < 10 then [digitByte n] else decDigits fuel (n / 10) ++ [digitByte (n % 10)]

/-- `dec(n)`: the decimal numeral with no leading zeros (rule R174). -/
def dec (n : Nat) : Text := decDigits (n + 1) n

/-- `dec2(n)`: two digits, zero-padded (rule R174). -/
def dec2 (n : Nat) : Text := [digitByte (n / 10), digitByte (n % 10)]

/-- FMT value, d (rule R174); none where `d` is neither 1 nor 2, which the rule refuses. -/
def fmt (v : Int) (d : Nat) : Option Text :=
  let sgn : Text := if v < 0 then ascii ['-'] else []
  let m := v.natAbs
  if d = 2 then some (sgn ++ dec (m / 100) ++ ascii ['.'] ++ dec2 (m % 100))
  else if d = 1 then some (sgn ++ dec (m / 100) ++ ascii ['.'] ++ dec (m % 100 / 10))
  else none

/-- One labelled reading of rule R175; none where FMT refuses. -/
def sensorLine (label : List Char) (v : Int) (d : Nat) (unit : List Char) : Option Text :=
  (fmt v d).map fun t => ascii label ++ t ++ ascii unit

/-- PRINT_SENSOR_DATA t, g, a on a display of `width` columns (rule R175). -/
def printSensorData (width : Nat) (t g a : Int) : Option (List Instr) :=
  match sensorLine ['T', 'e', 'm', 'p', ':', ' '] t 1 [' ', 'C'],
    sensorLine ['G', 'x', ':', ' '] g 2 [' ', 'd', 'e', 'g', '/', 's'],
    sensorLine ['A', 'x', ':', ' '] a 2 [' ', 'g'] with
  | some l0, some l1, some l2 => some (printLine width 0 l0 ++ printLine width 1 l1 ++ printLine width 2 l2)
  | _, _, _ => none

/-- The host presents a list of requests: their words join the port's queue in order (rules R81, R151). -/
def State.present (s : State) (is : List Instr) : State :=
  { s with requests := s.requests ++ is.filterMap requestWord }

end Sys2Proof.Machine
end

