-- ==== Sys2Proof/Safety.lean ====
section
/-! DEFINITION. What claims about runs are stated in: the invariant of the states a run meets, the moves of the world
outside, runs, the legal changes of `fsm` (rule R21), and what READY says of the trace (rule R129). -/

namespace Sys2Proof.Machine

/-- A byte the block may write: bit 3 is 1 and bit 1 is 0 (rule R75). -/
def wireLegal (b : Byte) : Bool := b.getLsbD 3 && !b.getLsbD 1

/-- The byte of a traced write, answered or cut (rule R65). -/
def Traced.writtenByte : Traced → Option Byte
  | .write b _ => some b
  | .probe _ => none
  | .wait _ => none
  | .cut b => some b

/-- The trace entry of an event that was not answered `fail` (rule R65). -/
def tracedOk : Event → Traced
  | .write b => .write b .ok
  | .probe => .probe .ok
  | .wait k => .wait k

/-- The geometry register holds `c` columns and `r` rows, within the bounds of rules R22 and R82. -/
def State.HoldsGeometry (s : State) (c r : Byte) : Prop :=
  s.cols = some c ∧ s.rows = some r ∧ 1 ≤ c.toNat ∧ c.toNat ≤ 40 ∧ 1 ≤ r.toNat ∧ r.toNat ≤ 4

/-- Nothing keeps the block from taking a presented request: no reset, an empty latch, a ready port (rules R81, R220). -/
def State.ReadyToTake (s : State) : Prop :=
  s.resetLine = false ∧ s.cmdIn = none ∧ s.seq = [] ∧ s.fsm ≠ .faulted

/-- The seven events of a logical byte in numbers: high nibble, low nibble, each with and without enable, then a wait
(rules R103, R104, R105). -/
def logicalByte (b rs : Nat) (closing : WaitKind) : List Event :=
  [.write (BitVec.ofNat 8 (16 * (b / 16) + 12 + rs)), .wait .en, .write (BitVec.ofNat 8 (16 * (b / 16) + 8 + rs)),
    .write (BitVec.ofNat 8 (16 * (b % 16) + 12 + rs)), .wait .en, .write (BitVec.ofNat 8 (16 * (b % 16) + 8 + rs)),
    .wait closing]

/-- The DDRAM address in numbers (rules R143, R146). -/
def addressNumber (col row cols rows : Nat) : Nat :=
  ([0x00, 0x40, 0x14, 0x54].getD (min row (rows - 1)) 0 + min col (cols - 1)) % 128

/-- The byte of an event that is a write (rule R27). -/
def Event.writtenByte : Event → Option Byte
  | .write b => some b
  | .probe => none
  | .wait _ => none

/-- An event that the transport answers (rule R54). -/
def Event.onBus : Event → Bool
  | .write _ => true
  | .probe => true
  | .wait _ => false

/-- How many answers a sequence takes (rule R54). -/
def busCount (es : List Event) : Nat := (es.filter Event.onBus).length

/-- The trace entry of an event that was answered `fail` (rules R65, R194). -/
def tracedFail : Event → Traced
  | .write b => .write b .fail
  | .probe => .probe .fail
  | .wait k => .wait k

/-- The cause that a failed event records (rules R191, R192). -/
def failCause : Event → FaultCause
  | .write _ => .writeFail
  | .probe => .probeFail
  | .wait _ => .none

/-- The byte that a failed event records (rules R30, R192). -/
def failByte : Event → Byte
  | .write b => b
  | .probe => 0
  | .wait _ => 0

/-- The invariant: what every state of a run satisfies. The premise of every statement that could fail only in a state no
run reaches. -/
structure State.Inv (s : State) : Prop where
  /-- No request and no step fills the command latch (rule R70: no raw command request; log 8). -/
  latchEmpty : s.cmdIn = none
  /-- UNINIT is idle and has no geometry (rules R22, R34, R82). -/
  uninitIdle : s.fsm = .uninit → s.seq = [] ∧ s.post = .uninit ∧ s.cols = none ∧ s.rows = none
  /-- Any other state holds a legal geometry (rule R22). -/
  geometryHeld : s.fsm ≠ .uninit → ∃ c r, s.cols = some c ∧ s.rows = some r ∧ geometryLegal c r = true
  /-- INITIALIZING is busy and leads to READY (rules R82, R120). -/
  initializingBusy : s.fsm = .initializing → s.seq ≠ [] ∧ s.post = .ready
  /-- READY stays READY when a sequence ends (rules R28, R140). -/
  readyPost : s.fsm = .ready → s.post = .ready
  /-- FAULTED has nothing left to perform (rule R191). -/
  faultedIdle : s.fsm = .faulted → s.seq = []
  /-- A cause is recorded exactly in FAULTED (rules R30, R191). -/
  causeRecorded : s.faultCause ≠ .none ↔ s.fsm = .faulted
  /-- The fault byte is 0 but for a failed write, whose byte the block may write (rules R30, R75). -/
  faultByteLegal : if s.faultCause = .writeFail then wireLegal s.faultByte = true else s.faultByte = 0
  /-- Every byte still to be written is legal (rule R75). -/
  seqLegal : ∀ b, .write b ∈ s.seq → wireLegal b = true
  /-- A probe is pending only in BEGIN's sequence (rules R55, R121). -/
  probeInit : .probe ∈ s.seq → s.fsm = .initializing
  /-- Every byte written is legal (rule R75). -/
  traceLegal : ∀ t ∈ s.trace, ∀ b, t.writtenByte = some b → wireLegal b = true
  /-- The longest expansion has 52 events (rule R27). -/
  seqShort : s.seq.length ≤ 52

/-- What the trace holds while INITIALIZING and READY, after what it held at some earlier time, `base` (rule R129): the
initialization sequence up to the pending events, or all of it and then only events that did not fail. -/
structure State.HistorySince (base : List Traced) (s : State) : Prop where
  whileInitializing : s.fsm = .initializing →
    ∃ before done, initSeq s.probeAtBegin = done ++ s.seq ∧ s.trace = base ++ before ++ done.map tracedOk
  whileReady : s.fsm = .ready →
    ∃ before later, s.trace = base ++ before ++ (initSeq s.probeAtBegin ++ later).map tracedOk

/-- A move of the world outside that is no reset: a request word is presented, or an answer of the transport is lined up
(rules R54, R81, R201). -/
inductive EnvMove : State → State → Prop where
  | present (s : State) (w : ReqWord) : EnvMove s { s with requests := s.requests ++ [w] }
  | answer (s : State) (a : Answer) : EnvMove s { s with answers := s.answers ++ [a] }

/-- A run without reset: steps of the block and moves of the world outside, interleaved (rule R201). -/
inductive QuietRun : State → State → Prop where
  | start (s : State) : QuietRun s s
  | step {s t u : State} : QuietRun s t → t.resetLine = false → Machine.step t = .next u → QuietRun s u
  | env {s t u : State} : QuietRun s t → EnvMove t u → QuietRun s u

/-- A run: steps, moves of the world outside, and reset pulses (rules R201, R220). -/
inductive Run : State → State → Prop where
  | start (s : State) : Run s s
  | step {s t u : State} : Run s t → Machine.step t = .next u → Run s u
  | env {s t u : State} : Run s t → EnvMove t u → Run s u
  | pulse {s t : State} : Run s t → Run s { t with resetLine := true }

/-- `k` steps of the block by itself, stopping at the first fault or refusal. -/
def runSteps : Nat → State → Result
  | 0, s => .next s
  | k + 1, s =>
    match step s with
    | .next t => runSteps k t
    | .fault r => .fault r
    | .refused r => .refused r

/-- The changes of `fsm` in rule R21's table, reset aside. -/
inductive FsmMove : Fsm → Fsm → Prop where
  /-- BEGIN accepted. -/
  | beginUninit : FsmMove .uninit .initializing
  /-- BEGIN accepted. -/
  | beginReady : FsmMove .ready .initializing
  /-- The last event of BEGIN's expansion completed. -/
  | complete : FsmMove .initializing .ready
  /-- A bus write or probe answered `fail`. -/
  | faultInit : FsmMove .initializing .faulted
  /-- A bus write or probe answered `fail`. -/
  | faultReady : FsmMove .ready .faulted

/-- The start state of a claim about a run (rule R222): the reset values, no mark, an empty trace, nothing in flight. -/
def State.cleanStart (s : State) : Prop :=
  s.fsm = .uninit ∧ s.cols = none ∧ s.rows = none ∧ s.seq = [] ∧ s.post = .uninit ∧ s.faultCause = .none
    ∧ s.faultByte = 0 ∧ s.refused = false ∧ s.trace = [] ∧ s.requests = []

end Sys2Proof.Machine
end

