-- ==== Sys2Proof/WellFormed.lean ====
section
/-! DEFINITION. Well-formed instructions: those that no state makes the block refuse for their operands (rules R82, R120).
Every operand value of every other row is legal (rules R145, R150). -/

namespace Sys2Proof

/-- The operand checks of rule R82: BEGIN's columns in 1..MAX_COLUMNS and rows in 1..4. -/
def Instr.wellFormed : Instr → Bool
  | .beginInit cols rows =>
      decide (1 ≤ cols.toNat) && decide (cols.toNat ≤ Config.maxColumns)
        && decide (1 ≤ rows.toNat) && decide (rows.toNat ≤ Config.maxRows)
  | .clear => true
  | .home => true
  | .setCursor _ _ => true
  | .putChar _ => true
  | .stringEnd => true
  | .fs8BitNibble => true
  | .fs4BitNibble => true
  | .cmdFunctionSet => true
  | .cmdDisplayOff => true
  | .cmdClear => true
  | .cmdEntryMode => true
  | .cmdDisplayOn => true
  | .cmdHome => true
  | .cmdSetDdram _ => true

end Sys2Proof
end

