-- ==== Sys2Proof/Certificates/Slice0/Obligations.lean ====
section
/-! DEFINITION. The statements for the provers, each from the numbered rules of the spec. The block has no memory (rule
R50), so no frame says anything of one. -/

open Sys2Proof Sys2Proof.Machine

/-! ## Encodings -/

/-- Rules R70, R72, R77: decoding the encoding of an instruction gives it back, for every operand value. -/
def Obligations.DecodeOfEncodeIsTheInstruction : Prop :=
  ∀ i : Instr, decode (encode i) = .ok i

/-- Rules R70, R72: a word that decodes is the one encoding of what it decodes to, and that is a request. -/
def Obligations.RequestWordHasOneMeaning : Prop :=
  ∀ (w : ReqWord) (i : Instr), decodeRequest w = .ok i → encode i = .request w ∧ i.isRequest = true

/-- Rule R72: the decoder, in numbers. -/
def Obligations.RequestDecodingFollowsTheTable : Prop :=
  ∀ w : ReqWord, (decodeRequest w).toOption =
    (let op := w.toNat / 2 ^ 28
     let c : Byte := BitVec.ofNat 8 (w.toNat / 2 ^ 8)
     let r : Byte := BitVec.ofNat 8 w.toNat
     if op = 1 then if w.toNat / 2 ^ 16 % 2 ^ 12 = 0 then some (.beginInit c r) else none
     else if op = 2 then if w.toNat % 2 ^ 28 = 0 then some .clear else none
     else if op = 3 then if w.toNat % 2 ^ 28 = 0 then some .home else none
     else if op = 4 then if w.toNat / 2 ^ 16 % 2 ^ 12 = 0 then some (.setCursor c r) else none
     else if op = 5 then if w.toNat / 2 ^ 8 % 2 ^ 20 = 0 then some (.putChar r) else none
     else if op = 6 then if w.toNat % 2 ^ 28 = 0 then some .stringEnd else none
     else none)

/-- Rule R79: the illegal words are those with a reserved opcode or a non-zero reserved bit; every other word is one of
the six requests, so none is a hint. -/
def Obligations.IllegalWordsAreTheReservedOnes : Prop :=
  ∀ w : ReqWord,
    ((∃ e, decodeRequest w = .error e) ↔
      w >>> 28 = 0 ∨ 7 ≤ (w >>> 28).toNat
        ∨ ((w >>> 28 = 1 ∨ w >>> 28 = 4) ∧ w &&& 0x0FFF0000 ≠ 0)
        ∨ ((w >>> 28 = 2 ∨ w >>> 28 = 3 ∨ w >>> 28 = 6) ∧ w &&& 0x0FFFFFFF ≠ 0)
        ∨ (w >>> 28 = 5 ∧ w &&& 0x0FFFFF00 ≠ 0))
    ∧ ((¬ ∃ e, decodeRequest w = .error e) → ∃ i, decodeRequest w = .ok i ∧ i.isRequest = true)

/-- Rule R77 and the opcode table's emitted rows: which command a byte is. That a whole command byte comes before a lone
nibble (0x28) is the model's choice, log 10. -/
def Obligations.CommandByteDecoding : Prop :=
  ∀ b : Byte, (decodeCommand b).toOption =
    (if 0x80 ≤ b.toNat then some (.cmdSetDdram (BitVec.ofNat 7 b.toNat))
     else if b.toNat / 16 = 3 then some .fs8BitNibble
     else if b.toNat = 0x28 then some .cmdFunctionSet
     else if b.toNat / 16 = 2 then some .fs4BitNibble
     else if b.toNat = 0x0C then some .cmdDisplayOn
     else if b.toNat = 0x08 then some .cmdDisplayOff
     else if b.toNat = 0x06 then some .cmdEntryMode
     else if b.toNat = 0x02 then some .cmdHome
     else if b.toNat = 0x01 then some .cmdClear
     else none)

/-- Words and bytes written out from the spec's encodings (rules R70, R77, R120, R141, R142, R144, R147, R150, R152), one
of each row or more. -/
def Obligations.WrittenOutWordsDecode : Prop :=
  decodeTableWord 32 0x10001002 = some (.beginInit 16 2) ∧ decodeTableWord 32 0x1000FF04 = some (.beginInit 255 4)
    ∧ decodeTableWord 32 0x20000000 = some .clear ∧ decodeTableWord 32 0x30000000 = some .home
    ∧ decodeTableWord 32 0x40000501 = some (.setCursor 5 1) ∧ decodeTableWord 32 0x40001303 = some (.setCursor 19 3)
    ∧ decodeTableWord 32 0x50000041 = some (.putChar 0x41) ∧ decodeTableWord 32 0x60000000 = some .stringEnd
    ∧ decodeTableWord 8 0x30 = some .fs8BitNibble ∧ decodeTableWord 8 0x20 = some .fs4BitNibble
    ∧ decodeTableWord 8 0x28 = some .cmdFunctionSet ∧ decodeTableWord 8 0x08 = some .cmdDisplayOff
    ∧ decodeTableWord 8 0x01 = some .cmdClear ∧ decodeTableWord 8 0x06 = some .cmdEntryMode
    ∧ decodeTableWord 8 0x0C = some .cmdDisplayOn ∧ decodeTableWord 8 0x02 = some .cmdHome
    ∧ decodeTableWord 8 0xC5 = some (.cmdSetDdram 0x45)
    ∧ decodeTableWord 32 0x00000000 = none ∧ decodeTableWord 32 0x70000000 = none
    ∧ decodeTableWord 32 0xF0000000 = none ∧ decodeTableWord 32 0x20000001 = none
    ∧ decodeTableWord 32 0x10011002 = none ∧ decodeTableWord 32 0x50000100 = none
    ∧ decodeTableWord 32 0x6000000F = none

/-! ## The step and the request port -/

/-- Rules R72, R81: a word at a ready port is consumed, and what it decodes to runs. -/
def Obligations.StepRunsTheDecodedRequest : Prop :=
  ∀ (s : State) (w : ReqWord) (ws : List ReqWord) (i : Instr),
    s.ReadyToTake → s.requests = w :: ws → decodeRequest w = .ok i → step s = exec i { s with requests := ws }

/-- The model's choice (log 7, log 8): an instruction placed by its bits, a request word or an emitted command byte, is
the one the next step runs, on the state with an idle, empty front end. -/
def Obligations.PlacedInstructionRunsNext : Prop :=
  ∀ (s : State) (nbits w : Nat) (i : Instr), s.fsm ≠ .faulted → decodeTableWord nbits w = some i →
    step (s.withFetchWord nbits w) = exec i { s with resetLine := false, seq := [], cmdIn := none }

/-- Rules R29, R81: when the port is ready; that a request presented before is held and not lost, by the meaning and by the
step; that it is taken when the port is ready; and that in FAULTED nothing more happens. -/
def Obligations.PortHoldsWhileNotReady : Prop :=
  (∀ s : State, (s.portReady = true ↔ s.seq = [] ∧ s.fsm ≠ .faulted) ∧ (s.busy = true ↔ s.seq ≠ []))
    ∧ (∀ (s : State) (i : Instr), i.isRequest = true → s.portReady = false → exec i s = .next s)
    ∧ (∀ s : State, s.portReady = false → s.resetLine = false → ∃ t, step s = .next t ∧ t.requests = s.requests)
    ∧ (∀ (s : State) (w : ReqWord) (ws : List ReqWord), s.Inv → s.resetLine = false → s.portReady = true →
        s.requests = w :: ws → ∃ t, step s = .next t ∧ t.requests = ws)
    ∧ (∀ s : State, s.fsm = .faulted → s.resetLine = false → step s = .next s)

/-- Rules R32, R80: an illegal word, or a request that rule R82 refuses, is consumed, sets the mark and does nothing else;
and no step clears the mark, reset included. -/
def Obligations.RefusalOnlySetsTheMark : Prop :=
  (∀ (s : State) (w : ReqWord) (ws : List ReqWord), s.ReadyToTake → s.requests = w :: ws →
    ((∃ e, decodeRequest w = .error e)
      ∨ (∃ i, decodeRequest w = .ok i ∧ s.fsm = .uninit ∧ ∀ c r, i ≠ .beginInit c r)
      ∨ (∃ c r, decodeRequest w = .ok (.beginInit c r) ∧ (s.fsm = .uninit ∨ s.fsm = .ready)
          ∧ ¬ (1 ≤ c.toNat ∧ c.toNat ≤ 40 ∧ 1 ≤ r.toNat ∧ r.toNat ≤ 4))) →
    step s = .next { s with requests := ws, refused := true })
  ∧ (∀ s t : State, step s = .next t → s.refused = true → t.refused = true)

/-- Rule R82: acceptance by state and request, at a ready port. -/
def Obligations.AcceptanceTable : Prop :=
  ∀ s : State, s.portReady = true →
    s.fsm ≠ .faulted ∧ (s.Inv → s.fsm ≠ .initializing)
    ∧ (∀ c r, s.fsm = .uninit ∨ s.fsm = .ready →
        (1 ≤ c.toNat ∧ c.toNat ≤ 40 ∧ 1 ≤ r.toNat ∧ r.toNat ≤ 4 →
          ∃ t, exec (.beginInit c r) s = .next t ∧ t.fsm = .initializing ∧ t.seq ≠ [] ∧ t.refused = s.refused)
        ∧ (¬ (1 ≤ c.toNat ∧ c.toNat ≤ 40 ∧ 1 ≤ r.toNat ∧ r.toNat ≤ 4) →
          exec (.beginInit c r) s = .next { s with refused := true }))
    ∧ (∀ i : Instr, i.isRequest = true → (∀ c r, i ≠ .beginInit c r) →
        (s.fsm = .uninit → exec i s = .next { s with refused := true })
        ∧ (s.fsm = .ready → ∀ c r, s.HoldsGeometry c r →
          ∃ t, exec i s = .next t ∧ t.fsm = .ready ∧ t.seq ≠ [] ∧ t.refused = s.refused))

/-! ## BEGIN -/

/-- Rule R120: the acceptance effect, what STATUS shows then, that an illegal geometry is refused, that a failed bus event
of the sequence ends it in FAULTED, and that the operands change no event. -/
def Obligations.BeginAccepted : Prop :=
  (∀ (s : State) (c r : Byte), s.seq = [] → s.fsm = .uninit ∨ s.fsm = .ready →
    (1 ≤ c.toNat ∧ c.toNat ≤ 40 ∧ 1 ≤ r.toNat ∧ r.toNat ≤ 4 →
      ∃ t, exec (.beginInit c r) s = .next t
        ∧ t = { s with
            cols := some c, rows := some r, fsm := .initializing, post := .ready, seq := initSeq s.probeAtBegin }
        ∧ t.status.extractLsb' 0 2 = 1 ∧ t.status.getLsbD 2 = true)
    ∧ (¬ (1 ≤ c.toNat ∧ c.toNat ≤ 40 ∧ 1 ≤ r.toNat ∧ r.toNat ≤ 4) →
      exec (.beginInit c r) s = .next { s with refused := true }))
  ∧ (∀ (s : State) (c r : Byte), s.portReady = false → exec (.beginInit c r) s = .next s)
  ∧ (∀ (s : State) (e : Event) (rest : List Event), s.fsm = .initializing → s.resetLine = false →
    s.seq = e :: rest → e.onBus = true → s.nextAnswer = .fail →
    ∃ t, step s = .next t ∧ t.fsm = .faulted ∧ t.seq = [] ∧ t.cols = s.cols ∧ t.rows = s.rows)
  ∧ (∀ (s : State) (c r c' r' : Byte) (t t' : State), s.seq = [] → s.fsm = .uninit ∨ s.fsm = .ready →
    geometryLegal c r = true → geometryLegal c' r' = true →
    exec (.beginInit c r) s = .next t → exec (.beginInit c' r') s = .next t' → t.seq = t'.seq)

/-- Rules R121 to R126: the initialization sequence event by event, with the probe and without, its written bytes and its
counts; and that every accepted BEGIN loads exactly it, whatever its operands. -/
def Obligations.InitSequenceEvents : Prop :=
  (∀ p : Bool, initSeq p = (if p then [.probe] else []) ++
    [.write 0x3C, .wait .en, .write 0x38, .wait .init1, .write 0x3C, .wait .en, .write 0x38, .wait .init2,
     .write 0x3C, .wait .en, .write 0x38, .wait .init3, .write 0x2C, .wait .en, .write 0x28, .wait .fourBit,
     .write 0x2C, .wait .en, .write 0x28, .write 0x8C, .wait .en, .write 0x88, .wait .cmd,
     .write 0x0C, .wait .en, .write 0x08, .write 0x8C, .wait .en, .write 0x88, .wait .cmd,
     .write 0x0C, .wait .en, .write 0x08, .write 0x1C, .wait .en, .write 0x18, .wait .cmd,
     .write 0x0C, .wait .en, .write 0x08, .write 0x6C, .wait .en, .write 0x68, .wait .cmd,
     .write 0x0C, .wait .en, .write 0x08, .write 0xCC, .wait .en, .write 0xC8, .wait .cmd])
  ∧ (∀ p : Bool, (initSeq p).filterMap Event.writtenByte =
    [0x3C, 0x38, 0x3C, 0x38, 0x3C, 0x38, 0x2C, 0x28, 0x2C, 0x28, 0x8C, 0x88, 0x0C, 0x08, 0x8C, 0x88, 0x0C, 0x08, 0x1C,
     0x18, 0x0C, 0x08, 0x6C, 0x68, 0x0C, 0x08, 0xCC, 0xC8])
  ∧ (initSeq true).length = 52 ∧ (initSeq false).length = 51
  ∧ (∀ p : Bool, ((initSeq p).filter fun e => !e.onBus).length = 23)
  ∧ waitMinMs .init1 = 50 ∧ waitMinMs .init2 = 5 ∧ waitMinMs .init3 = 5 ∧ waitMinMs .fourBit = Config.t4BitMs
  ∧ waitMinMs .cmd = 2
  ∧ (∀ (s t : State) (c r : Byte), s.seq = [] → s.fsm = .uninit ∨ s.fsm = .ready → geometryLegal c r = true →
    exec (.beginInit c r) s = .next t → t.seq = initSeq s.probeAtBegin)

/-- Rule R127: the last event, done without a failure, makes the block READY and the port ready. -/
def Obligations.InitCompletesToReady : Prop :=
  ∀ (s : State) (e : Event), s.fsm = .initializing → s.post = .ready → s.resetLine = false → s.seq = [e] →
    (e.onBus = true → s.nextAnswer = .ok) →
    ∃ t, step s = .next t ∧ t.fsm = .ready ∧ t.portReady = true ∧ t.seq = []

/-- Rule R128: BEGIN in READY goes to INITIALIZING with the new geometry and the whole sequence; until it is done the block
is never UNINIT and takes no request, unless it is reset. -/
def Obligations.ReinitializationFromReady : Prop :=
  (∀ (s : State) (c r : Byte), s.fsm = .ready → s.seq = [] → geometryLegal c r = true →
    ∃ t, exec (.beginInit c r) s = .next t ∧ t.fsm = .initializing ∧ t.cols = some c ∧ t.rows = some r
      ∧ t.seq = initSeq s.probeAtBegin ∧ t.post = .ready ∧ t.requests = s.requests)
  ∧ (∀ s t : State, s.Inv → s.fsm = .initializing → s.resetLine = false → step s = .next t →
    t.fsm ≠ .uninit ∧ t.requests = s.requests)

/-- Rule R130: INITIALIZING goes on to the next event, completes, or faults; the geometry is kept and no request is taken.
-/
def Obligations.InitIsNotCancelled : Prop :=
  ∀ s : State, s.Inv → s.fsm = .initializing → s.resetLine = false →
    ∃ e rest t, s.seq = e :: rest ∧ step s = .next t ∧ t.cols = s.cols ∧ t.rows = s.rows ∧ t.requests = s.requests
      ∧ ((t.fsm = .initializing ∧ t.seq = rest ∧ rest ≠ []) ∨ (t.fsm = .ready ∧ t.seq = [] ∧ rest = [])
        ∨ (t.fsm = .faulted ∧ t.seq = [] ∧ e.onBus = true ∧ s.nextAnswer = .fail))

/-- Rules R125 to R127 on a run: a legal BEGIN taken by a block that is UNINIT or READY, with every answer ok, makes it
READY after one step for the request and one for each event, with exactly the sequence in the trace. -/
def Obligations.BeginReachesReady : Prop :=
  ∀ (s : State) (c r : Byte) (ws : List ReqWord) (more : List Answer),
    s.ReadyToTake → s.fsm = .uninit ∨ s.fsm = .ready → geometryLegal c r = true →
    s.requests = (0x10000000#32 ||| c.setWidth 32 <<< 8 ||| r.setWidth 32) :: ws →
    s.answers = List.replicate (if s.probeAtBegin then 29 else 28) .ok ++ more →
    ∃ t, runSteps (if s.probeAtBegin then 53 else 52) s = .next t
      ∧ t.fsm = .ready ∧ t.portReady = true ∧ t.cols = some c ∧ t.rows = some r ∧ t.requests = ws ∧ t.answers = more
      ∧ t.trace = s.trace ++ (initSeq s.probeAtBegin).map tracedOk

/-! ## Ready-state requests and the address calculator -/

/-- Rule R140: the five Ready-state requests accepted in READY load a non-empty expansion and leave STATUS.STATE at 2 with
BUSY at 1; otherwise they are held or refused; and READY always holds a geometry. -/
def Obligations.ReadyRequestAcceptance : Prop :=
  (∀ s : State, s.Inv → s.fsm = .ready → ∃ c r, s.HoldsGeometry c r)
  ∧ ∀ (s : State) (i : Instr), i.isRequest = true → (∀ c r, i ≠ .beginInit c r) →
    (s.fsm = .ready → s.seq = [] → ∀ c r, s.HoldsGeometry c r →
      ∃ es t, es ≠ [] ∧ exec i s = .next t ∧ t = { s with post := .ready, seq := es }
        ∧ t.status.extractLsb' 0 2 = 2 ∧ t.status.getLsbD 2 = true)
    ∧ (s.fsm = .uninit → s.seq = [] → exec i s = .next { s with refused := true })
    ∧ (s.fsm = .faulted ∨ s.seq ≠ [] → exec i s = .next s)

/-- Rules R141, R142: CLEAR and HOME. -/
def Obligations.ClearAndHomeSendTheirCommands : Prop :=
  ∀ s : State, s.fsm = .ready → s.seq = [] →
    exec .clear s = .next { s with
      post := .ready,
      seq := [.write 0x0C, .wait .en, .write 0x08, .write 0x1C, .wait .en, .write 0x18, .wait .cmd] }
    ∧ exec .home s = .next { s with
      post := .ready,
      seq := [.write 0x0C, .wait .en, .write 0x08, .write 0x2C, .wait .en, .write 0x28, .wait .cmd] }

/-- Rules R144, R147: SET_CURSOR sends the command byte 0x80 plus the calculator's address. -/
def Obligations.SetCursorSendsTheAddress : Prop :=
  ∀ (s : State) (col row c r : Byte), s.fsm = .ready → s.seq = [] → s.HoldsGeometry c r →
    exec (.setCursor col row) s = .next { s with
      post := .ready,
      seq := logicalByte (0x80 + addressNumber col.toNat row.toNat c.toNat r.toNat) 0 .cmd }

/-- Rules R150, R104: PUT_CHAR sends its byte unchanged in data mode, whatever its value. -/
def Obligations.PutCharSendsItsByte : Prop :=
  ∀ (s : State) (b : Byte), s.fsm = .ready → s.seq = [] →
    exec (.putChar b) s = .next { s with post := .ready, seq := logicalByte b.toNat 1 .data }

/-- Rule R152: STRING_END emits the trailing wait and nothing else, and that event cannot fault. -/
def Obligations.StringEndOnlyWaits : Prop :=
  (∀ s : State, s.fsm = .ready → s.seq = [] →
    exec .stringEnd s = .next { s with post := .ready, seq := [.wait .str] })
  ∧ waitMinMs .str = Config.tStrSettleMs
  ∧ (∀ s : State, s.fsm = .ready → s.post = .ready → s.resetLine = false → s.seq = [.wait .str] →
    step s = .next { s with seq := [], trace := s.trace ++ [.wait .str] })

/-- Rule R143: the calculator in numbers, for every operand and every legal geometry; and the byte of rule R147, 0x80 with
the address in its low seven bits, whose value 0x80 is general knowledge (log 17). -/
def Obligations.DdramAddressFormula : Prop :=
  (∀ col row c r : Byte, geometryLegal c r = true →
    (ddramAddr col row c r).toNat = addressNumber col.toNat row.toNat c.toNat r.toNat)
  ∧ (∀ a : BitVec 7, (setDdramByte a).toNat = 0x80 + a.toNat)

/-- Rule R145: saturation, each coordinate by itself, never an error and never recorded. -/
def Obligations.ClampSaturates : Prop :=
  (∀ v bound : Byte, 1 ≤ bound.toNat →
    clampTo v bound < bound.toNat ∧ (v.toNat < bound.toNat → clampTo v bound = v.toNat)
      ∧ (bound.toNat ≤ v.toNat → clampTo v bound = bound.toNat - 1))
  ∧ (∀ row r : Byte, 1 ≤ r.toNat → r.toNat ≤ 4 → clampTo row r ≤ 3)
  ∧ (∀ col row c r : Byte, geometryLegal c r = true →
    ddramAddr col row c r = ddramAddr (BitVec.ofNat 8 (clampTo col c)) row c r
      ∧ ddramAddr col row c r = ddramAddr col (BitVec.ofNat 8 (clampTo row r)) c r)
  ∧ (∀ (s : State) (col row c r : Byte), s.fsm = .ready → s.seq = [] → s.HoldsGeometry c r →
    ∃ t, exec (.setCursor col row) s = .next t ∧ t.refused = s.refused ∧ t.fsm = .ready
      ∧ t.status.extractLsb' 3 13 = s.status.extractLsb' 3 13)

/-- Rule R146: the sum never wraps and is at most 0x7B; the range of each row with 40 columns; the overlap of rows when
there are more than 20 columns. -/
def Obligations.AddressRanges : Prop :=
  (∀ col row c r : Byte, geometryLegal c r = true →
    (ddramAddr col row c r).toNat
      = [0x00, 0x40, 0x14, 0x54].getD (min row.toNat (r.toNat - 1)) 0 + min col.toNat (c.toNat - 1)
    ∧ (ddramAddr col row c r).toNat ≤ 0x7B)
  ∧ (∀ col row : Byte,
    (row.toNat = 0 → (ddramAddr col row 40 4).toNat ≤ 0x27)
    ∧ (row.toNat = 1 → 0x40 ≤ (ddramAddr col row 40 4).toNat ∧ (ddramAddr col row 40 4).toNat ≤ 0x67)
    ∧ (row.toNat = 2 → 0x14 ≤ (ddramAddr col row 40 4).toNat ∧ (ddramAddr col row 40 4).toNat ≤ 0x3B)
    ∧ (3 ≤ row.toNat → 0x54 ≤ (ddramAddr col row 40 4).toNat ∧ (ddramAddr col row 40 4).toNat ≤ 0x7B))
  ∧ (ddramAddr 0 0 40 4 = 0x00 ∧ ddramAddr 39 0 40 4 = 0x27 ∧ ddramAddr 0 1 40 4 = 0x40 ∧ ddramAddr 39 1 40 4 = 0x67
    ∧ ddramAddr 0 2 40 4 = 0x14 ∧ ddramAddr 39 2 40 4 = 0x3B ∧ ddramAddr 0 3 40 4 = 0x54 ∧ ddramAddr 39 3 40 4 = 0x7B)
  ∧ (∀ c r : Byte, geometryLegal c r = true → 20 < c.toNat →
    (3 ≤ r.toNat → ddramAddr 20 0 c r = ddramAddr 0 2 c r) ∧ (r.toNat = 4 → ddramAddr 20 1 c r = ddramAddr 0 3 c r))

/-- Rule R148: every column from the last and every row from the last on act as the last ones, and the last ones act as the
configured counts do. -/
def Obligations.ClampIdentity : Prop :=
  ∀ (s : State) (col row c r : Byte), s.HoldsGeometry c r → c.toNat - 1 ≤ col.toNat → r.toNat - 1 ≤ row.toNat →
    exec (.setCursor col row) s = exec (.setCursor (c - 1) (r - 1)) s ∧ exec (.setCursor c r) s = exec (.setCursor (c - 1) (r - 1)) s

/-- Rule R149: SET_CURSOR writes `seq` and `post` and nothing else, and no instruction's events depend on what was sent
before: two states that agree on `fsm`, geometry, parameter and pending events load the same. -/
def Obligations.NoCursorState : Prop :=
  (∀ (s t : State) (col row : Byte), s.fsm = .ready → exec (.setCursor col row) s = .next t →
    t = { s with seq := t.seq, post := t.post })
  ∧ (∀ (i : Instr) (s s' t t' : State), s.fsm = s'.fsm → s.cols = s'.cols → s.rows = s'.rows →
    s.probeAtBegin = s'.probeAtBegin → s.seq = s'.seq → exec i s = .next t → exec i s' = .next t' → t.seq = t'.seq)

/-! ## The nibble protocol -/

/-- Rule R100: a frame in numbers: the nibble kept, the low bits dropped, backlight 1, enable and bit 1 at 0. -/
def Obligations.FrameByte : Prop :=
  ∀ v : Byte, (frame v .command).toNat = v.toNat / 16 * 16 + 8 ∧ (frame v .data).toNat = v.toNat / 16 * 16 + 9

/-- Rule R101: the nibble pulse; its two bytes differ in the enable bit alone; a failed write of either enters FAULTED, and
the first one's failure drops the wait and the second write. -/
def Obligations.NibblePulse : Prop :=
  (∀ (v : Byte) (m : Mode), nib v m = [.write (frame v m + 4), .wait .en, .write (frame v m)]
    ∧ (frame v m + 4) ^^^ frame v m = 4)
  ∧ waitMinMs .en = Config.tEnSettleMs ∧ 0 < Config.tEnSettleMs
  ∧ (∀ (s : State) (v : Byte) (m : Mode) (rest : List Event), s.fsm ≠ .faulted → s.resetLine = false →
    s.seq = nib v m ++ rest → s.nextAnswer = .fail →
    ∃ t, step s = .next t ∧ t.fsm = .faulted ∧ t.seq = [] ∧ t.trace = s.trace ++ [.write (frame v m + 4) .fail])
  ∧ (∀ (s : State) (v : Byte) (m : Mode) (rest : List Event), s.fsm ≠ .faulted → s.resetLine = false →
    s.seq = .write (frame v m) :: rest → s.nextAnswer = .fail →
    ∃ t, step s = .next t ∧ t.fsm = .faulted ∧ t.seq = [])

/-- Rules R102, R105: the nibble split, and the four writes of a logical byte in either mode, as the rule writes them. -/
def Obligations.LogicalByteWrites : Prop :=
  (∀ b : Byte, (hi b).toNat = 16 * (b.toNat / 16) ∧ (lo b).toNat = 16 * (b.toNat % 16))
  ∧ (∀ b : Byte, (cmdEvents b).filterMap Event.writtenByte =
    [(b &&& 0xF0#8) ||| 0x0C#8, (b &&& 0xF0#8) ||| 0x08#8, ((b <<< 4) &&& 0xF0#8) ||| 0x0C#8,
     ((b <<< 4) &&& 0xF0#8) ||| 0x08#8])
  ∧ (∀ b : Byte, (dataEvents b).filterMap Event.writtenByte =
    [(b &&& 0xF0#8) ||| 0x0C#8 ||| 1#8, (b &&& 0xF0#8) ||| 0x08#8 ||| 1#8,
     ((b <<< 4) &&& 0xF0#8) ||| 0x0C#8 ||| 1#8,
     ((b <<< 4) &&& 0xF0#8) ||| 0x08#8 ||| 1#8])

/-- Rules R103, R104: the seven events of a command byte and of a data byte, and their closing waits. -/
def Obligations.CommandAndDataBytes : Prop :=
  ∀ b : Byte, cmdEvents b = logicalByte b.toNat 0 .cmd ∧ dataEvents b = logicalByte b.toNat 1 .data
    ∧ waitMinMs .cmd = 2 ∧ waitMinMs .data = 1

/-- Rule R75: the bytes a nibble can bring are exactly those with bit 3 at 1 and bit 1 at 0, there are 64, and in every
state of a run the bytes written, cut ones too, and still to be written are of them. -/
def Obligations.TransmittedByteSet : Prop :=
  (∀ b : Byte, (b.getLsbD 3 = true ∧ b.getLsbD 1 = false) ↔ ∃ v m, .write b ∈ nib v m)
  ∧ ((List.range 256).filter fun n => (BitVec.ofNat 8 n).getLsbD 3 && !(BitVec.ofNat 8 n).getLsbD 1).length = 64
  ∧ (∀ (s : State) (b : Byte), s.Inv → .write b ∈ s.seq → b.getLsbD 3 = true ∧ b.getLsbD 1 = false)
  ∧ (∀ (s : State) (t : Traced) (b : Byte), s.Inv → t ∈ s.trace → t.writtenByte = some b →
    b.getLsbD 3 = true ∧ b.getLsbD 1 = false)

/-- Rule R78: only PUT_CHAR brings a write with RS = 1. -/
def Obligations.DataModeOnlyFromPutChar : Prop :=
  ∀ (i : Instr) (s t : State) (b : Byte), exec i s = .next t → .write b ∈ t.seq → .write b ∉ s.seq →
    b.getLsbD 0 = true → ∃ char, i = .putChar char

/-- The emitted commands run alone, on any block that is not FAULTED, append the events rules R101, R103 give to what is
pending. The bytes are rule R77's; that they append, and that the latch runs them, is the model's choice (log 8, log 9). -/
def Obligations.CommandsAppendTheirEvents : Prop :=
  ∀ s : State, s.fsm ≠ .faulted →
    exec .fs8BitNibble s = .next { s with seq := s.seq ++ [.write 0x3C, .wait .en, .write 0x38] }
    ∧ exec .fs4BitNibble s = .next { s with seq := s.seq ++ [.write 0x2C, .wait .en, .write 0x28] }
    ∧ exec .cmdFunctionSet s = .next { s with seq := s.seq ++ logicalByte 0x28 0 .cmd }
    ∧ exec .cmdDisplayOff s = .next { s with seq := s.seq ++ logicalByte 0x08 0 .cmd }
    ∧ exec .cmdClear s = .next { s with seq := s.seq ++ logicalByte 0x01 0 .cmd }
    ∧ exec .cmdEntryMode s = .next { s with seq := s.seq ++ logicalByte 0x06 0 .cmd }
    ∧ exec .cmdDisplayOn s = .next { s with seq := s.seq ++ logicalByte 0x0C 0 .cmd }
    ∧ exec .cmdHome s = .next { s with seq := s.seq ++ logicalByte 0x02 0 .cmd }
    ∧ ∀ a : BitVec 7, exec (.cmdSetDdram a) s = .next { s with seq := s.seq ++ logicalByte (0x80 + a.toNat) 0 .cmd }

/-! ## Events, faults, reset -/

/-- Rule R56: `step_event`, with the answer of rule R54, and no event step of an idle block. -/
def Obligations.EventStep : Prop :=
  (∀ (s : State) (k : WaitKind) (rest : List Event), s.fsm ≠ .faulted → s.resetLine = false →
    s.seq = .wait k :: rest →
    step s = .next { s with
      trace := s.trace ++ [.wait k], seq := rest, fsm := if rest = [] then s.post else s.fsm })
  ∧ (∀ (s : State) (b : Byte) (rest : List Event), s.fsm ≠ .faulted → s.resetLine = false →
    s.seq = .write b :: rest →
    step s = .next (match s.nextAnswer with
      | .ok => { s with
          trace := s.trace ++ [.write b .ok], seq := rest, fsm := if rest = [] then s.post else s.fsm,
          answers := s.answers.tail, draws := s.draws + 1 }
      | .fail => { s with
          trace := s.trace ++ [.write b .fail], seq := [], fsm := .faulted, faultCause := .writeFail, faultByte := b,
          answers := s.answers.tail, draws := s.draws + 1 }))
  ∧ (∀ (s : State) (rest : List Event), s.fsm ≠ .faulted → s.resetLine = false → s.seq = .probe :: rest →
    step s = .next (match s.nextAnswer with
      | .ok => { s with
          trace := s.trace ++ [.probe .ok], seq := rest, fsm := if rest = [] then s.post else s.fsm,
          answers := s.answers.tail, draws := s.draws + 1 }
      | .fail => { s with
          trace := s.trace ++ [.probe .fail], seq := [], fsm := .faulted, faultCause := .probeFail, faultByte := 0,
          answers := s.answers.tail, draws := s.draws + 1 }))
  ∧ (∀ s : State, s.seq = [] → s.cmdIn = none → s.requests = [] → s.resetLine = false → step s = .next s)

/-- Rules R51, R54, R65: the bus address is even; every entry of a trace that is no wait, whatever its answer and cut ones
too, went there, and a wait went nowhere; and either answer can be the next. -/
def Obligations.BusInterface : Prop :=
  Config.devAddr8.toNat = 2 * Config.devAddr7.toNat ∧ Config.devAddr8.getLsbD 0 = false
  ∧ (∀ t : Traced, (∀ k, t ≠ .wait k) → t.busAddress = some Config.devAddr8)
  ∧ (∀ k : WaitKind, (Traced.wait k).busAddress = none)
  ∧ (∀ e : Event, e.onBus = true → (tracedOk e).busAddress = some Config.devAddr8
    ∧ (tracedFail e).busAddress = some Config.devAddr8)
  ∧ (∀ (s : State) (a : Answer) (as : List Answer), ({ s with answers := a :: as } : State).nextAnswer = a)

/-- Rule R191: entry to FAULTED from a failed write or probe, STATUS.FATAL with it, and then no event and no request. -/
def Obligations.BusErrorEntry : Prop :=
  (∀ (s : State) (e : Event) (rest : List Event), s.fsm ≠ .faulted → s.resetLine = false → s.seq = e :: rest →
    e.onBus = true → s.nextAnswer = .fail →
    ∃ t, step s = .next t ∧ t.fsm = .faulted ∧ t.seq = []
      ∧ t.faultCause = failCause e ∧ t.faultByte = failByte e
      ∧ t.status.getLsbD 3 = true ∧ s.status.getLsbD 3 = false)
  ∧ (∀ s : State, s.fsm = .faulted → s.resetLine = false → step s = .next s)
  ∧ (∀ (s : State) (i : Instr), s.fsm = .faulted → exec i s = .next s)

/-- Rules R30, R192: the fault record's codes, who writes it and with what, and that it stays until reset; which requests
can raise which cause. -/
def Obligations.FaultRecord : Prop :=
  causeCode .none = 0 ∧ causeCode .writeFail = 1 ∧ causeCode .probeFail = 2
  ∧ (∀ s t : State, s.Inv → step s = .next t → s.resetLine = false →
    (t.faultCause = s.faultCause ∧ t.faultByte = s.faultByte)
    ∨ (s.fsm ≠ .faulted ∧ t.fsm = .faulted ∧ s.nextAnswer = .fail
        ∧ ((∃ b rest, s.seq = .write b :: rest ∧ t.faultCause = .writeFail ∧ t.faultByte = b)
          ∨ (∃ rest, s.seq = .probe :: rest ∧ t.faultCause = .probeFail ∧ t.faultByte = 0))))
  ∧ (∀ (i : Instr) (s t : State), s.seq = [] → exec i s = .next t → .probe ∈ t.seq →
    s.probeAtBegin = true ∧ ∃ c r, i = .beginInit c r)
  ∧ (∀ s t : State, s.seq = [] → exec .stringEnd s = .next t → ∀ e ∈ t.seq, e.onBus = false)

/-- Rule R196: FAULTED is left by reset alone; there is no request that returns from it and no second fault. -/
def Obligations.FaultedUntilReset : Prop :=
  (∀ s t : State, s.fsm = .faulted → step s = .next t → t.fsm ≠ .faulted → s.resetLine = true ∧ t.fsm = .uninit)
  ∧ (∀ (s : State) (i : Instr), s.fsm = .faulted → exec i s = .next s)
  ∧ (∀ s t : State, s.fsm = .faulted → s.resetLine = false → step s = .next t →
    t.faultCause = s.faultCause ∧ t.faultByte = s.faultByte ∧ t.trace = s.trace)

/-- Rules R9, R56: a pending sequence whose answers are all ok is performed event by event, in order and to its end. -/
def Obligations.SequenceRunsToCompletion : Prop :=
  ∀ (es : List Event) (s : State) (more : List Answer), s.seq = es → es ≠ [] → s.fsm ≠ .faulted → s.resetLine = false →
    s.answers = List.replicate (busCount es) .ok ++ more →
    runSteps es.length s = .next { s with
      seq := [], fsm := s.post, trace := s.trace ++ es.map tracedOk, answers := more, draws := s.draws + busCount es }

/-- Rules R193, R194: a failure at any point completes the events before it, with FATAL low so far; it is the last event of
the trace; and no later step of the block, however many, adds an event or takes a request, so FATAL rises once. -/
def Obligations.FailureEndsTheSequence : Prop :=
  ∀ (done rest : List Event) (e : Event) (s : State) (more : List Answer),
    s.seq = done ++ e :: rest → e.onBus = true → s.fsm ≠ .faulted → s.resetLine = false →
    s.answers = List.replicate (busCount done) .ok ++ .fail :: more →
    (∀ k, runSteps (done.length + 1 + k) s = .next { s with
      seq := [], fsm := .faulted, faultCause := failCause e, faultByte := failByte e,
      trace := s.trace ++ done.map tracedOk ++ [tracedFail e], answers := more,
      draws := s.draws + busCount done + 1 })
    ∧ (∀ k, k ≤ done.length → ∃ t, runSteps k s = .next t ∧ t.fatal = false ∧ t.seq = s.seq.drop k
        ∧ t.trace = s.trace ++ (done.take k).map tracedOk)

/-- Rule R220: the reset input, whatever the state: the reset values, the mark kept, the pending events dropped, a write in
flight reaching the display or not, the port ready and only BEGIN accepted. -/
def Obligations.ResetInput : Prop :=
  ∀ s : State, s.resetLine = true →
    ∃ t, step s = .next t ∧ t.fsm = .uninit ∧ t.cols = none ∧ t.rows = none ∧ t.seq = [] ∧ t.post = .uninit
      ∧ t.faultCause = .none ∧ t.faultByte = 0 ∧ t.refused = s.refused ∧ t.portReady = true ∧ t.status = 0
      ∧ (t.trace = s.trace ∨ ∃ b rest, s.seq = .write b :: rest ∧ t.trace = s.trace ++ [.cut b])
      ∧ (∀ i : Instr, i.isRequest = true → (∀ c r, i ≠ .beginInit c r) → exec i t = .next { t with refused := true })
      ∧ (∀ c r : Byte, geometryLegal c r = true → ∃ u, exec (.beginInit c r) t = .next u ∧ u.fsm = .initializing)

/-- Rules R34, R222: the state after reset is a clean start with STATUS 0x0000; the reset input leaves the mark unchanged. -/
def Obligations.ResetState : Prop :=
  State.reset.cleanStart ∧ State.reset.status = 0x0000 ∧ ∀ s : State, s.takeReset.refused = s.refused

/-! ## What the block shows -/

/-- Rule R31: the status word field by field, and that FATAL stays high until reset. -/
def Obligations.StatusWord : Prop :=
  (∀ s : State,
    s.status.extractLsb' 0 2
        = (match s.fsm with | .uninit => 0#2 | .initializing => 1#2 | .ready => 2#2 | .faulted => 3#2)
      ∧ (s.status.getLsbD 2 = true ↔ s.seq ≠ [])
      ∧ (s.status.getLsbD 3 = true ↔ s.fsm = .faulted)
      ∧ s.status.extractLsb' 4 2 = (match s.faultCause with | .none => 0#2 | .writeFail => 1#2 | .probeFail => 2#2)
      ∧ s.status.extractLsb' 6 2 = 0#2
      ∧ s.status.extractLsb' 8 8 = s.faultByte)
  ∧ (∀ s t : State, step s = .next t → s.status.getLsbD 3 = true → s.resetLine = false → t.status.getLsbD 3 = true)

/-- Rule R28: what `post` is set to, and when it is written to `fsm`. -/
def Obligations.PostRule : Prop :=
  (∀ (s t : State) (c r : Byte), exec (.beginInit c r) s = .next t → t.fsm = .initializing → s.fsm ≠ .initializing →
    t.post = .ready)
  ∧ (∀ (i : Instr) (s t : State), i.isRequest = true → (∀ c r, i ≠ .beginInit c r) → exec i s = .next t →
    t.fsm = s.fsm ∧ (t.seq ≠ s.seq → t.post = s.fsm))
  ∧ (∀ s t : State, s.fsm ≠ .faulted → s.resetLine = false → s.seq ≠ [] → step s = .next t → t.fsm ≠ .faulted →
    t.fsm = if t.seq = [] then s.post else s.fsm)

/-- Rule R153: the events of each accepted request, writes and waits counted. -/
def Obligations.EventCounts : Prop :=
  (∀ (i : Instr) (s t : State), s.fsm = .ready → s.seq = [] → exec i s = .next t →
    match i with
    | .clear | .home | .setCursor _ _ | .putChar _ =>
      t.seq.length = 7 ∧ (t.seq.filterMap Event.writtenByte).length = 4 ∧ (t.seq.filter fun e => !e.onBus).length = 3
    | .stringEnd => t.seq.length = 1 ∧ (t.seq.filter fun e => !e.onBus).length = 1
    | _ => True)
  ∧ (∀ (s t : State) (c r : Byte), s.seq = [] → s.fsm = .uninit ∨ s.fsm = .ready → geometryLegal c r = true →
    exec (.beginInit c r) s = .next t → t.seq.length = if s.probeAtBegin then 52 else 51)

/-- Rule R228: the least duration of each accepted request, as the sum of its waits, and of a string of any length. -/
def Obligations.MinimumDurations : Prop :=
  (∀ (s t : State) (c r : Byte), s.seq = [] → s.fsm = .uninit ∨ s.fsm = .ready → geometryLegal c r = true →
    exec (.beginInit c r) s = .next t → seqMinMs t.seq = 70 + Config.t4BitMs + 14 * Config.tEnSettleMs)
  ∧ (∀ (i : Instr) (s t : State), s.fsm = .ready → s.seq = [] → exec i s = .next t →
    match i with
    | .clear | .home | .setCursor _ _ => seqMinMs t.seq = 2 + 2 * Config.tEnSettleMs
    | .putChar _ => seqMinMs t.seq = 1 + 2 * Config.tEnSettleMs
    | .stringEnd => seqMinMs t.seq = Config.tStrSettleMs
    | _ => True)
  ∧ (∀ t : Text, seqMinMs (t.flatMap dataEvents ++ [.wait .str])
      = t.length * (1 + 2 * Config.tEnSettleMs) + Config.tStrSettleMs)

/-! ## Invariants and whole-machine rules -/

/-- The invariant holds after reset. -/
def Obligations.InvariantAtReset : Prop :=
  State.reset.Inv

/-- Every step keeps the invariant, from every state that has it. -/
def Obligations.StepKeepsInvariant : Prop :=
  ∀ s t : State, s.Inv → step s = .next t → t.Inv

/-- Every state a run from reset meets, with any requests, answers and reset pulses coming from outside, has the
invariant, and its next step answers a next state. -/
def Obligations.RunKeepsInvariant : Prop :=
  ∀ t : State, Run State.reset t → t.Inv ∧ ∃ u, step t = .next u

/-- No state with the invariant faults or refuses: the two faults of the model stand for states no run reaches (rules R22,
R82; log 15, log 16). -/
def Obligations.InvariantStepNeverStops : Prop :=
  ∀ s : State, s.Inv → ∃ t, step s = .next t

/-- Rule R21: the encoding of `fsm`, and its legal transitions with their causes, exactly those. -/
def Obligations.FsmTransitions : Prop :=
  (fsmCode .uninit = 0 ∧ fsmCode .initializing = 1 ∧ fsmCode .ready = 2 ∧ fsmCode .faulted = 3)
  ∧ (∀ s t : State, s.Inv → step s = .next t →
    (s.resetLine = true → t.fsm = .uninit)
    ∧ (s.resetLine = false → t.fsm = s.fsm ∨ FsmMove s.fsm t.fsm)
    ∧ (s.resetLine = false → s.fsm ≠ .initializing → t.fsm = .initializing →
        ∃ w ws c r, s.requests = w :: ws ∧ decodeRequest w = .ok (.beginInit c r))
    ∧ (s.fsm = .initializing → t.fsm = .ready → ∃ e, s.seq = [e] ∧ (e.onBus = true → s.nextAnswer = .ok))
    ∧ (s.fsm ≠ .faulted → t.fsm = .faulted → ∃ e rest, s.seq = e :: rest ∧ e.onBus = true ∧ s.nextAnswer = .fail))

/-- Rule R129 as an invariant: a step keeps what INITIALIZING and READY say of the trace. -/
def Obligations.StepKeepsHistory : Prop :=
  ∀ (base : List Traced) (s t : State), s.Inv → s.resetLine = false → s.HistorySince base → base <+: s.trace →
    step s = .next t → t.HistorySince base ∧ base <+: t.trace

/-- Rule R129: on every run without reset that starts UNINIT, READY means that the trace holds, since the start, one whole
initialization sequence of some BEGIN with every answer ok, and after it only events that did not fail. -/
def Obligations.ReadyOnlyThroughInit : Prop :=
  ∀ s t : State, s.Inv → s.fsm = .uninit → QuietRun s t → t.fsm = .ready →
    ∃ before later, t.trace = s.trace ++ before ++ (initSeq s.probeAtBegin ++ later).map tracedOk

/-- Rule R22: the geometry is none until the first BEGIN; it is written by an accepted BEGIN and with legal values only
(reset takes it away, rule R34); a request that reads it is not accepted while it holds none; a fault keeps it. -/
def Obligations.GeometryWrittenOnlyByBegin : Prop :=
  (State.reset.cols = none ∧ State.reset.rows = none ∧ ∀ s : State, s.Inv → s.fsm = .uninit → s.cols = none ∧ s.rows = none)
  ∧
  (∀ s t : State, s.Inv → step s = .next t → s.resetLine = false →
    (t.cols = s.cols ∧ t.rows = s.rows)
    ∨ ∃ w ws c r, s.requests = w :: ws ∧ decodeRequest w = .ok (.beginInit c r) ∧ t.cols = some c ∧ t.rows = some r
        ∧ 1 ≤ c.toNat ∧ c.toNat ≤ 40 ∧ 1 ≤ r.toNat ∧ r.toNat ≤ 4)
  ∧ (∀ (s t : State) (col row : Byte), s.cols = none ∨ s.rows = none → exec (.setCursor col row) s = .next t →
    t.seq = s.seq ∧ t.post = s.post)
  ∧ (∀ s t : State, step s = .next t → s.resetLine = false → s.fsm ≠ .faulted → t.fsm = .faulted →
    t.cols = s.cols ∧ t.rows = s.rows)

/-! ## Frames -/

/-- What the instructions leave alone where they answer with a next state: every request but for `seq`, `post`, the mark,
and, in BEGIN alone, the geometry and `fsm` (rules R80, R120, R140, R149); every emitted command but for `seq`, which it
only extends (rules R101, R103; log 9). The block has no memory. -/
def Obligations.InstructionFrames : Prop :=
  (∀ (i : Instr) (s t : State), i.isRequest = true → exec i s = .next t →
    t.faultCause = s.faultCause ∧ t.faultByte = s.faultByte ∧ t.probeAtBegin = s.probeAtBegin
      ∧ t.requests = s.requests ∧ t.resetLine = s.resetLine ∧ t.answers = s.answers ∧ t.draws = s.draws
      ∧ t.trace = s.trace ∧ t.cmdIn = s.cmdIn ∧ (s.refused = true → t.refused = true)
      ∧ (t.refused ≠ s.refused → t = { s with refused := true })
      ∧ ((∀ c r, i ≠ .beginInit c r) → t.fsm = s.fsm ∧ t.cols = s.cols ∧ t.rows = s.rows))
  ∧ (∀ (i : Instr) (s t : State), i.isRequest = false → exec i s = .next t →
    ∃ es, t = { s with seq := s.seq ++ es })

/-- What performing an event leaves alone (rules R56, R130, R191): geometry, `post`, the mark, the parameter, the request
port, the reset input and the latch; the fault record too, unless the block enters FAULTED. The trace grows by one entry. -/
def Obligations.EventFrame : Prop :=
  ∀ s : State, s.fsm ≠ .faulted → s.resetLine = false → s.seq ≠ [] →
    ∃ t entry, step s = .next t ∧ t.cols = s.cols ∧ t.rows = s.rows ∧ t.post = s.post ∧ t.refused = s.refused
      ∧ t.probeAtBegin = s.probeAtBegin ∧ t.requests = s.requests ∧ t.resetLine = s.resetLine ∧ t.cmdIn = s.cmdIn
      ∧ t.trace = s.trace ++ [entry] ∧ (t.fsm ≠ .faulted → t.faultCause = s.faultCause ∧ t.faultByte = s.faultByte)
      ∧ (t.seq = s.seq.tail ∨ (t.seq = [] ∧ t.fsm = .faulted))

/-! ## Host macros -/

/-- Rules R151, R170: a string presented to an idle READY block, every answer ok, is sent as one data byte for each
character, in order, and the trailing wait: one step for each request taken and one for each event. -/
def Obligations.SendStringTransmitsInOrder : Prop :=
  ∀ (t : Text) (s : State) (ws : List ReqWord) (more : List Answer),
    s.ReadyToTake → s.fsm = .ready → s.requests = (sendString t).filterMap requestWord ++ ws →
    s.answers = List.replicate (4 * t.length) .ok ++ more →
    ∃ u, runSteps (8 * t.length + 2) s = .next u ∧ u.fsm = .ready ∧ u.seq = [] ∧ u.requests = ws ∧ u.answers = more
      ∧ u.refused = s.refused ∧ u.trace = s.trace ++ (t.flatMap dataEvents ++ [Event.wait .str]).map tracedOk

/-- Rules R172, R173: a line is one SET_CURSOR, exactly `width` characters whatever the text, and STRING_END; the
characters are the text's first ones and then spaces, so only the first `width` bytes matter. -/
def Obligations.PrintLineFillsTheWidth : Prop :=
  ∀ (width : Nat) (row : Byte) (t : Text),
    (∃ line : Text, printLine width row t = .setCursor 0 row :: line.map .putChar ++ [.stringEnd]
      ∧ line.length = width ∧ line.take (min width t.length) = t.take width
      ∧ ∀ c ∈ line.drop (min width t.length), c = 0x20)
    ∧ printLine width row t = printLine width row (t.take width)

/-- Rule R174: which precisions FMT gives a text, its sign, its whole part without leading zeros, its fraction truncated. -/
def Obligations.FixedPointFormat : Prop :=
  (∀ (v : Int) (d : Nat), d ≠ 1 → d ≠ 2 → fmt v d = none)
  ∧ ∀ v : Int, ∃ ip : Text,
    ip ≠ [] ∧ (∀ c ∈ ip, 0x30 ≤ c.toNat ∧ c.toNat ≤ 0x39) ∧ (1 < ip.length → ip.head? ≠ some 0x30)
    ∧ ip.foldl (fun n c => 10 * n + (c.toNat - 0x30)) 0 = v.natAbs / 100
    ∧ fmt v 2 = some ((if v < 0 then [0x2D] else []) ++ ip
        ++ [0x2E, BitVec.ofNat 8 (0x30 + v.natAbs % 100 / 10), BitVec.ofNat 8 (0x30 + v.natAbs % 10)])
    ∧ fmt v 1 = some ((if v < 0 then [0x2D] else []) ++ ip ++ [0x2E, BitVec.ofNat 8 (0x30 + v.natAbs % 100 / 10)])
end

