-- ==== Sys2Proof/Laws/Nibble.lean ====
section
/-! SUPPORT. What the nibble protocol's expansions hold: their bytes are legal, they probe nothing, they are short (rules
R75, R100 to R104, R153). -/

namespace Sys2Proof.Machine

/-- An expansion as every request but BEGIN has it: not empty, no probe, at most 7 events, legal bytes (rules R75, R153). -/
structure PlainEvents (es : List Event) : Prop where
  nonempty : es ≠ []
  short : es.length ≤ 7
  noProbe : .probe ∉ es
  legal : ∀ b, .write b ∈ es → wireLegal b = true

/-- A frame has bit 3 set and bits 1 and 2 clear (rule R100). -/
theorem frame_bits (v : Byte) (m : Mode) :
    (frame v m).getLsbD 3 = true ∧ (frame v m).getLsbD 1 = false ∧ (frame v m).getLsbD 2 = false := by
  cases m <;> simp [frame, backlightBit, rsBit]

/-- Both bytes of a nibble pulse are legal (rule R75). -/
theorem nib_legal (v : Byte) (m : Mode) (b : Byte) (h : .write b ∈ nib v m) : wireLegal b = true := by
  obtain ⟨h3, h1, -⟩ := frame_bits v m
  simp only [nib, List.mem_cons, Event.write.injEq, reduceCtorEq, List.not_mem_nil, or_false, false_or] at h
  rcases h with rfl | rfl <;> simp_all [wireLegal, enableBit]

theorem nib_noProbe (v : Byte) (m : Mode) : .probe ∉ nib v m := by simp [nib]

theorem nib_length (v : Byte) (m : Mode) : (nib v m).length = 3 := rfl

theorem nib_plain (v : Byte) (m : Mode) : PlainEvents (nib v m) :=
  ⟨by simp [nib], by simp [nib_length], nib_noProbe v m, nib_legal v m⟩

/-- A logical byte's expansion in either mode, with its closing wait (rules R103, R104). -/
theorem byteEvents_plain (b : Byte) (m : Mode) (k : WaitKind) :
    PlainEvents (nib (hi b) m ++ nib (lo b) m ++ [.wait k]) := by
  refine ⟨by simp, by simp [nib_length], ?_, ?_⟩
  · simp [nib_noProbe]
  · intro c hc
    simp only [List.mem_append, List.mem_singleton, reduceCtorEq, or_false] at hc
    exact hc.elim (nib_legal _ _ c) (nib_legal _ _ c)

theorem cmdEvents_plain (b : Byte) : PlainEvents (cmdEvents b) := byteEvents_plain b .command .cmd

theorem dataEvents_plain (b : Byte) : PlainEvents (dataEvents b) := byteEvents_plain b .data .data

theorem strWait_plain : PlainEvents [.wait .str] := ⟨by simp, by simp, by simp, by simp⟩

/-- The initialization sequence is not empty (rule R126). -/
theorem initSeq_ne_nil (p : Bool) : initSeq p ≠ [] := by cases p <;> decide

/-- It has 52 events with the probe and 51 without (rule R126). -/
theorem initSeq_length (p : Bool) : (initSeq p).length = if p then 52 else 51 := by cases p <;> rfl

/-- Its bytes are legal (rule R75). -/
theorem initSeq_legal (p : Bool) (b : Byte) (h : .write b ∈ initSeq p) : wireLegal b = true := by
  have all : ∀ e ∈ initSeq p, ∀ c, e = .write c → wireLegal c = true := by
    have : (initSeq p).all (fun e => match e with | .write c => wireLegal c | _ => true) = true := by
      cases p <;> decide
    intro e he c hc
    have := List.all_eq_true.mp this e he
    subst hc
    exact this
  exact all _ h b rfl

end Sys2Proof.Machine
end

