-- ==== Sys2Proof/Laws/State.lean ====
section
/-! SUPPORT. One lemma per field of State for each named update, so that no later proof unfolds a record update. -/

namespace Sys2Proof.Machine

/-! Refusal (rule R80). -/

@[simp] theorem State.refuse_fsm (s : State) : (s.refuse).fsm = s.fsm := rfl
@[simp] theorem State.refuse_cols (s : State) : (s.refuse).cols = s.cols := rfl
@[simp] theorem State.refuse_rows (s : State) : (s.refuse).rows = s.rows := rfl
@[simp] theorem State.refuse_seq (s : State) : (s.refuse).seq = s.seq := rfl
@[simp] theorem State.refuse_post (s : State) : (s.refuse).post = s.post := rfl
@[simp] theorem State.refuse_faultCause (s : State) : (s.refuse).faultCause = s.faultCause := rfl
@[simp] theorem State.refuse_faultByte (s : State) : (s.refuse).faultByte = s.faultByte := rfl
@[simp] theorem State.refuse_refused (s : State) : (s.refuse).refused = true := rfl
@[simp] theorem State.refuse_probeAtBegin (s : State) : (s.refuse).probeAtBegin = s.probeAtBegin := rfl
@[simp] theorem State.refuse_requests (s : State) : (s.refuse).requests = s.requests := rfl
@[simp] theorem State.refuse_resetLine (s : State) : (s.refuse).resetLine = s.resetLine := rfl
@[simp] theorem State.refuse_answers (s : State) : (s.refuse).answers = s.answers := rfl
@[simp] theorem State.refuse_draws (s : State) : (s.refuse).draws = s.draws := rfl
@[simp] theorem State.refuse_trace (s : State) : (s.refuse).trace = s.trace := rfl
@[simp] theorem State.refuse_cmdIn (s : State) : (s.refuse).cmdIn = s.cmdIn := rfl

/-! An event enters the trace (rule R65). -/

@[simp] theorem State.emit_fsm (s : State) (t : Traced) : (s.emit t).fsm = s.fsm := rfl
@[simp] theorem State.emit_cols (s : State) (t : Traced) : (s.emit t).cols = s.cols := rfl
@[simp] theorem State.emit_rows (s : State) (t : Traced) : (s.emit t).rows = s.rows := rfl
@[simp] theorem State.emit_seq (s : State) (t : Traced) : (s.emit t).seq = s.seq := rfl
@[simp] theorem State.emit_post (s : State) (t : Traced) : (s.emit t).post = s.post := rfl
@[simp] theorem State.emit_faultCause (s : State) (t : Traced) : (s.emit t).faultCause = s.faultCause := rfl
@[simp] theorem State.emit_faultByte (s : State) (t : Traced) : (s.emit t).faultByte = s.faultByte := rfl
@[simp] theorem State.emit_refused (s : State) (t : Traced) : (s.emit t).refused = s.refused := rfl
@[simp] theorem State.emit_probeAtBegin (s : State) (t : Traced) : (s.emit t).probeAtBegin = s.probeAtBegin := rfl
@[simp] theorem State.emit_requests (s : State) (t : Traced) : (s.emit t).requests = s.requests := rfl
@[simp] theorem State.emit_resetLine (s : State) (t : Traced) : (s.emit t).resetLine = s.resetLine := rfl
@[simp] theorem State.emit_answers (s : State) (t : Traced) : (s.emit t).answers = s.answers := rfl
@[simp] theorem State.emit_draws (s : State) (t : Traced) : (s.emit t).draws = s.draws := rfl
@[simp] theorem State.emit_trace (s : State) (t : Traced) : (s.emit t).trace = s.trace ++ [t] := rfl
@[simp] theorem State.emit_cmdIn (s : State) (t : Traced) : (s.emit t).cmdIn = s.cmdIn := rfl

/-! The geometry register (rule R22). -/

@[simp] theorem State.setGeometry_fsm (s : State) (c r : Byte) : (s.setGeometry c r).fsm = s.fsm := rfl
@[simp] theorem State.setGeometry_cols (s : State) (c r : Byte) : (s.setGeometry c r).cols = some c := rfl
@[simp] theorem State.setGeometry_rows (s : State) (c r : Byte) : (s.setGeometry c r).rows = some r := rfl
@[simp] theorem State.setGeometry_seq (s : State) (c r : Byte) : (s.setGeometry c r).seq = s.seq := rfl
@[simp] theorem State.setGeometry_post (s : State) (c r : Byte) : (s.setGeometry c r).post = s.post := rfl
@[simp] theorem State.setGeometry_faultCause (s : State) (c r : Byte) : (s.setGeometry c r).faultCause = s.faultCause := rfl
@[simp] theorem State.setGeometry_faultByte (s : State) (c r : Byte) : (s.setGeometry c r).faultByte = s.faultByte := rfl
@[simp] theorem State.setGeometry_refused (s : State) (c r : Byte) : (s.setGeometry c r).refused = s.refused := rfl
@[simp] theorem State.setGeometry_probeAtBegin (s : State) (c r : Byte) : (s.setGeometry c r).probeAtBegin = s.probeAtBegin := rfl
@[simp] theorem State.setGeometry_requests (s : State) (c r : Byte) : (s.setGeometry c r).requests = s.requests := rfl
@[simp] theorem State.setGeometry_resetLine (s : State) (c r : Byte) : (s.setGeometry c r).resetLine = s.resetLine := rfl
@[simp] theorem State.setGeometry_answers (s : State) (c r : Byte) : (s.setGeometry c r).answers = s.answers := rfl
@[simp] theorem State.setGeometry_draws (s : State) (c r : Byte) : (s.setGeometry c r).draws = s.draws := rfl
@[simp] theorem State.setGeometry_trace (s : State) (c r : Byte) : (s.setGeometry c r).trace = s.trace := rfl
@[simp] theorem State.setGeometry_cmdIn (s : State) (c r : Byte) : (s.setGeometry c r).cmdIn = s.cmdIn := rfl

/-! An expansion is loaded (rules R27, R28). -/

@[simp] theorem State.load_fsm (s : State) (p : Fsm) (es : List Event) : (s.load p es).fsm = s.fsm := rfl
@[simp] theorem State.load_cols (s : State) (p : Fsm) (es : List Event) : (s.load p es).cols = s.cols := rfl
@[simp] theorem State.load_rows (s : State) (p : Fsm) (es : List Event) : (s.load p es).rows = s.rows := rfl
@[simp] theorem State.load_seq (s : State) (p : Fsm) (es : List Event) : (s.load p es).seq = es := rfl
@[simp] theorem State.load_post (s : State) (p : Fsm) (es : List Event) : (s.load p es).post = p := rfl
@[simp] theorem State.load_faultCause (s : State) (p : Fsm) (es : List Event) : (s.load p es).faultCause = s.faultCause := rfl
@[simp] theorem State.load_faultByte (s : State) (p : Fsm) (es : List Event) : (s.load p es).faultByte = s.faultByte := rfl
@[simp] theorem State.load_refused (s : State) (p : Fsm) (es : List Event) : (s.load p es).refused = s.refused := rfl
@[simp] theorem State.load_probeAtBegin (s : State) (p : Fsm) (es : List Event) : (s.load p es).probeAtBegin = s.probeAtBegin := rfl
@[simp] theorem State.load_requests (s : State) (p : Fsm) (es : List Event) : (s.load p es).requests = s.requests := rfl
@[simp] theorem State.load_resetLine (s : State) (p : Fsm) (es : List Event) : (s.load p es).resetLine = s.resetLine := rfl
@[simp] theorem State.load_answers (s : State) (p : Fsm) (es : List Event) : (s.load p es).answers = s.answers := rfl
@[simp] theorem State.load_draws (s : State) (p : Fsm) (es : List Event) : (s.load p es).draws = s.draws := rfl
@[simp] theorem State.load_trace (s : State) (p : Fsm) (es : List Event) : (s.load p es).trace = s.trace := rfl
@[simp] theorem State.load_cmdIn (s : State) (p : Fsm) (es : List Event) : (s.load p es).cmdIn = s.cmdIn := rfl

/-! The head event is dropped (rule R56). -/

@[simp] theorem State.advance_fsm (s : State) : (s.advance).fsm = s.fsm := rfl
@[simp] theorem State.advance_cols (s : State) : (s.advance).cols = s.cols := rfl
@[simp] theorem State.advance_rows (s : State) : (s.advance).rows = s.rows := rfl
@[simp] theorem State.advance_seq (s : State) : (s.advance).seq = s.seq.tail := rfl
@[simp] theorem State.advance_post (s : State) : (s.advance).post = s.post := rfl
@[simp] theorem State.advance_faultCause (s : State) : (s.advance).faultCause = s.faultCause := rfl
@[simp] theorem State.advance_faultByte (s : State) : (s.advance).faultByte = s.faultByte := rfl
@[simp] theorem State.advance_refused (s : State) : (s.advance).refused = s.refused := rfl
@[simp] theorem State.advance_probeAtBegin (s : State) : (s.advance).probeAtBegin = s.probeAtBegin := rfl
@[simp] theorem State.advance_requests (s : State) : (s.advance).requests = s.requests := rfl
@[simp] theorem State.advance_resetLine (s : State) : (s.advance).resetLine = s.resetLine := rfl
@[simp] theorem State.advance_answers (s : State) : (s.advance).answers = s.answers := rfl
@[simp] theorem State.advance_draws (s : State) : (s.advance).draws = s.draws := rfl
@[simp] theorem State.advance_trace (s : State) : (s.advance).trace = s.trace := rfl
@[simp] theorem State.advance_cmdIn (s : State) : (s.advance).cmdIn = s.cmdIn := rfl

/-! An answer is taken (rule R54). -/

@[simp] theorem State.takeAnswer_fsm (s : State) : (s.takeAnswer).fsm = s.fsm := rfl
@[simp] theorem State.takeAnswer_cols (s : State) : (s.takeAnswer).cols = s.cols := rfl
@[simp] theorem State.takeAnswer_rows (s : State) : (s.takeAnswer).rows = s.rows := rfl
@[simp] theorem State.takeAnswer_seq (s : State) : (s.takeAnswer).seq = s.seq := rfl
@[simp] theorem State.takeAnswer_post (s : State) : (s.takeAnswer).post = s.post := rfl
@[simp] theorem State.takeAnswer_faultCause (s : State) : (s.takeAnswer).faultCause = s.faultCause := rfl
@[simp] theorem State.takeAnswer_faultByte (s : State) : (s.takeAnswer).faultByte = s.faultByte := rfl
@[simp] theorem State.takeAnswer_refused (s : State) : (s.takeAnswer).refused = s.refused := rfl
@[simp] theorem State.takeAnswer_probeAtBegin (s : State) : (s.takeAnswer).probeAtBegin = s.probeAtBegin := rfl
@[simp] theorem State.takeAnswer_requests (s : State) : (s.takeAnswer).requests = s.requests := rfl
@[simp] theorem State.takeAnswer_resetLine (s : State) : (s.takeAnswer).resetLine = s.resetLine := rfl
@[simp] theorem State.takeAnswer_answers (s : State) : (s.takeAnswer).answers = s.answers.tail := rfl
@[simp] theorem State.takeAnswer_draws (s : State) : (s.takeAnswer).draws = s.draws + 1 := rfl
@[simp] theorem State.takeAnswer_trace (s : State) : (s.takeAnswer).trace = s.trace := rfl
@[simp] theorem State.takeAnswer_cmdIn (s : State) : (s.takeAnswer).cmdIn = s.cmdIn := rfl

/-! Entry to FAULTED (rule R191). -/

@[simp] theorem State.busError_fsm (s : State) (k : FaultCause) (b : Byte) : (s.busError k b).fsm = .faulted := rfl
@[simp] theorem State.busError_cols (s : State) (k : FaultCause) (b : Byte) : (s.busError k b).cols = s.cols := rfl
@[simp] theorem State.busError_rows (s : State) (k : FaultCause) (b : Byte) : (s.busError k b).rows = s.rows := rfl
@[simp] theorem State.busError_seq (s : State) (k : FaultCause) (b : Byte) : (s.busError k b).seq = [] := rfl
@[simp] theorem State.busError_post (s : State) (k : FaultCause) (b : Byte) : (s.busError k b).post = s.post := rfl
@[simp] theorem State.busError_faultCause (s : State) (k : FaultCause) (b : Byte) : (s.busError k b).faultCause = k := rfl
@[simp] theorem State.busError_faultByte (s : State) (k : FaultCause) (b : Byte) : (s.busError k b).faultByte = b := rfl
@[simp] theorem State.busError_refused (s : State) (k : FaultCause) (b : Byte) : (s.busError k b).refused = s.refused := rfl
@[simp] theorem State.busError_probeAtBegin (s : State) (k : FaultCause) (b : Byte) : (s.busError k b).probeAtBegin = s.probeAtBegin := rfl
@[simp] theorem State.busError_requests (s : State) (k : FaultCause) (b : Byte) : (s.busError k b).requests = s.requests := rfl
@[simp] theorem State.busError_resetLine (s : State) (k : FaultCause) (b : Byte) : (s.busError k b).resetLine = s.resetLine := rfl
@[simp] theorem State.busError_answers (s : State) (k : FaultCause) (b : Byte) : (s.busError k b).answers = s.answers := rfl
@[simp] theorem State.busError_draws (s : State) (k : FaultCause) (b : Byte) : (s.busError k b).draws = s.draws := rfl
@[simp] theorem State.busError_trace (s : State) (k : FaultCause) (b : Byte) : (s.busError k b).trace = s.trace := rfl
@[simp] theorem State.busError_cmdIn (s : State) (k : FaultCause) (b : Byte) : (s.busError k b).cmdIn = s.cmdIn := rfl

/-! The reset values (rule R34). -/

@[simp] theorem State.clearForReset_fsm (s : State) : (s.clearForReset).fsm = .uninit := rfl
@[simp] theorem State.clearForReset_cols (s : State) : (s.clearForReset).cols = none := rfl
@[simp] theorem State.clearForReset_rows (s : State) : (s.clearForReset).rows = none := rfl
@[simp] theorem State.clearForReset_seq (s : State) : (s.clearForReset).seq = [] := rfl
@[simp] theorem State.clearForReset_post (s : State) : (s.clearForReset).post = .uninit := rfl
@[simp] theorem State.clearForReset_faultCause (s : State) : (s.clearForReset).faultCause = .none := rfl
@[simp] theorem State.clearForReset_faultByte (s : State) : (s.clearForReset).faultByte = 0 := rfl
@[simp] theorem State.clearForReset_refused (s : State) : (s.clearForReset).refused = s.refused := rfl
@[simp] theorem State.clearForReset_probeAtBegin (s : State) : (s.clearForReset).probeAtBegin = s.probeAtBegin := rfl
@[simp] theorem State.clearForReset_requests (s : State) : (s.clearForReset).requests = s.requests := rfl
@[simp] theorem State.clearForReset_resetLine (s : State) : (s.clearForReset).resetLine = false := rfl
@[simp] theorem State.clearForReset_answers (s : State) : (s.clearForReset).answers = s.answers := rfl
@[simp] theorem State.clearForReset_draws (s : State) : (s.clearForReset).draws = s.draws := rfl
@[simp] theorem State.clearForReset_trace (s : State) : (s.clearForReset).trace = s.trace := rfl
@[simp] theorem State.clearForReset_cmdIn (s : State) : (s.clearForReset).cmdIn = none := rfl

end Sys2Proof.Machine
end

