-- ==== Sys2Proof/Laws/Ops.lean ====
section
/-! SUPPORT. One lemma per shared operation that says everything it can do. -/

namespace Sys2Proof.Machine

/-! Ports and geometry. -/

/-- Rule R81: ready exactly when nothing is pending and the block is not FAULTED. -/
theorem State.portReady_iff (s : State) : s.portReady = true ↔ s.seq = [] ∧ s.fsm ≠ .faulted := by
  simp [State.portReady, State.fatal]

theorem State.busy_iff (s : State) : s.busy = true ↔ s.seq ≠ [] := by
  simp [State.busy]

theorem State.fatal_iff (s : State) : s.fatal = true ↔ s.fsm = .faulted := by
  simp [State.fatal]

/-- A legal geometry in numbers (rule R82). -/
theorem geometryLegal_iff (c r : Byte) :
    geometryLegal c r = true ↔ 1 ≤ c.toNat ∧ c.toNat ≤ 40 ∧ 1 ≤ r.toNat ∧ r.toNat ≤ 4 := by
  simp only [geometryLegal, Bool.and_eq_true, decide_eq_true_eq, and_assoc]
  rfl

/-- BEGIN's well-formedness is the legality that its meaning checks (rules R82, R120). -/
theorem beginInit_wellFormed (c r : Byte) : (Instr.beginInit c r).wellFormed = geometryLegal c r := rfl

/-- The geometry read is the register, where it is legal (rule R22). -/
theorem State.geometry_eq_some (s : State) (c r : Byte) :
    s.geometry = some (c, r) ↔ s.cols = some c ∧ s.rows = some r ∧ geometryLegal c r = true := by
  unfold State.geometry
  cases s.cols <;> cases s.rows <;> simp
  rename_i a b
  by_cases h : geometryLegal a b = true <;> simp [h]
  · rintro rfl rfl; exact h
  · rintro rfl rfl; simpa using h

/-! Admission. -/

theorem acceptRequest_held (u r : State → Result) {s : State} (h : s.portReady = false) :
    acceptRequest u r s = .next s := by
  simp [acceptRequest, h]

theorem acceptRequest_uninit (u r : State → Result) {s : State} (h : s.fsm = .uninit) (hs : s.seq = []) :
    acceptRequest u r s = u s := by
  simp [acceptRequest, (s.portReady_iff).mpr ⟨hs, by simp [h]⟩, h]

theorem acceptRequest_ready (u r : State → Result) {s : State} (h : s.fsm = .ready) (hs : s.seq = []) :
    acceptRequest u r s = r s := by
  simp [acceptRequest, (s.portReady_iff).mpr ⟨hs, by simp [h]⟩, h]

/-- Everything admission can answer with a next state (rules R80, R81, R82). -/
theorem acceptRequest_next {u r : State → Result} {s t : State} (h : acceptRequest u r s = .next t) :
    (s.portReady = false ∧ t = s) ∨ (s.seq = [] ∧ s.fsm = .uninit ∧ u s = .next t)
      ∨ (s.seq = [] ∧ s.fsm = .ready ∧ r s = .next t) := by
  unfold acceptRequest at h
  split at h
  next hp =>
    obtain ⟨hs, hf⟩ := (s.portReady_iff).mp hp
    cases hfsm : s.fsm with
    | uninit => exact .inr (.inl ⟨hs, rfl, by simpa [hfsm] using h⟩)
    | ready => exact .inr (.inr ⟨hs, rfl, by simpa [hfsm] using h⟩)
    | initializing => simp [hfsm] at h
    | faulted => exact absurd hfsm hf
  next hp => exact .inl ⟨by simpa using hp, by cases h; rfl⟩

/-- The accepted BEGIN, field by field (rule R120). -/
theorem beginAccepted_eq (c r : Byte) (s : State) :
    beginAccepted c r s =
      { s with cols := some c, rows := some r, fsm := .initializing, post := .ready, seq := initSeq s.probeAtBegin } := rfl

/-- An emitted command run alone: nothing in FAULTED, else its events join `seq` (log 9). -/
theorem sendEvents_next {es : List Event} {s t : State} (h : sendEvents es s = .next t) :
    (s.fsm = .faulted ∧ t = s) ∨ (s.fsm ≠ .faulted ∧ t = { s with seq := s.seq ++ es }) := by
  unfold sendEvents at h
  split at h
  next hf => exact .inl ⟨(s.fatal_iff).mp hf, by cases h; rfl⟩
  next hf => exact .inr ⟨fun c => hf ((s.fatal_iff).mpr c), by cases h; rfl⟩

theorem sendEvents_live {es : List Event} {s : State} (h : s.fsm ≠ .faulted) :
    sendEvents es s = .next { s with seq := s.seq ++ es } := by
  simp [sendEvents, State.fatal, h]

theorem sendEvents_faulted {es : List Event} {s : State} (h : s.fsm = .faulted) : sendEvents es s = .next s := by
  simp [sendEvents, State.fatal, h]

/-- Everything an instruction can do, where it answers with a next state (rules R80 to R82, R120, R140; log 9). -/
theorem exec_next {i : Instr} {s t : State} (h : exec i s = .next t) :
    t = s
    ∨ (i.isRequest = true ∧ s.seq = [] ∧ (s.fsm = .uninit ∨ s.fsm = .ready) ∧ t = s.refuse)
    ∨ (∃ c r, i = .beginInit c r ∧ s.seq = [] ∧ (s.fsm = .uninit ∨ s.fsm = .ready) ∧ geometryLegal c r = true
        ∧ t = beginAccepted c r s)
    ∨ (∃ es, PlainEvents es ∧ i.isRequest = true ∧ s.seq = [] ∧ s.fsm = .ready ∧ t = s.load .ready es)
    ∨ (∃ es, PlainEvents es ∧ i.isRequest = false ∧ s.fsm ≠ .faulted ∧ t = { s with seq := s.seq ++ es }) := by
  have ready {es : List Event} (hreq : i.isRequest = true) (hp : PlainEvents es) (h : acceptReady es s = .next t) :
      t = s ∨ (i.isRequest = true ∧ s.seq = [] ∧ (s.fsm = .uninit ∨ s.fsm = .ready) ∧ t = s.refuse)
        ∨ (∃ es, PlainEvents es ∧ i.isRequest = true ∧ s.seq = [] ∧ s.fsm = .ready ∧ t = s.load .ready es) := by
    obtain ⟨-, rfl⟩ | ⟨hs, hf, h⟩ | ⟨hs, hf, h⟩ := acceptRequest_next h
    · exact .inl rfl
    · cases h; exact .inr (.inl ⟨hreq, hs, .inl hf, rfl⟩)
    · cases h; exact .inr (.inr ⟨es, hp, hreq, hs, hf, rfl⟩)
  have weaken {P Q R S T : Prop} : P ∨ Q ∨ S → P ∨ Q ∨ R ∨ S ∨ T := by tauto
  have sent {es : List Event} (hreq : i.isRequest = false) (hp : PlainEvents es) (h : sendEvents es s = .next t) :
      t = s ∨ (∃ es, PlainEvents es ∧ i.isRequest = false ∧ s.fsm ≠ .faulted ∧ t = { s with seq := s.seq ++ es }) := by
    obtain ⟨-, rfl⟩ | ⟨hf, rfl⟩ := sendEvents_next h
    · exact .inl rfl
    · exact .inr ⟨es, hp, hreq, hf, rfl⟩
  have weaken' {P Q R S T : Prop} : P ∨ T → P ∨ Q ∨ R ∨ S ∨ T := by tauto
  cases i with
  | beginInit c r =>
    obtain ⟨-, rfl⟩ | ⟨hs, hf, h⟩ | ⟨hs, hf, h⟩ := acceptRequest_next h
    · exact .inl rfl
    all_goals
      unfold tryBegin at h
      split at h
      · cases h
        exact .inr (.inr (.inl ⟨c, r, rfl, hs, by simp [hf], by assumption, rfl⟩))
      · cases h
        exact .inr (.inl ⟨rfl, hs, by simp [hf], rfl⟩)
  | clear => exact weaken (ready rfl (cmdEvents_plain _) h)
  | home => exact weaken (ready rfl (cmdEvents_plain _) h)
  | setCursor col row =>
    obtain ⟨-, rfl⟩ | ⟨hs, hf, h⟩ | ⟨hs, hf, h⟩ := acceptRequest_next h
    · exact .inl rfl
    · cases h; exact .inr (.inl ⟨rfl, hs, .inl hf, rfl⟩)
    · unfold loadSetCursor at h
      split at h
      · cases h; exact .inr (.inr (.inr (.inl ⟨_, cmdEvents_plain _, rfl, hs, hf, rfl⟩)))
      · cases h
  | putChar b => exact weaken (ready rfl (dataEvents_plain _) h)
  | stringEnd => exact weaken (ready rfl strWait_plain h)
  | fs8BitNibble => exact weaken' (sent rfl (nib_plain _ _) h)
  | fs4BitNibble => exact weaken' (sent rfl (nib_plain _ _) h)
  | cmdFunctionSet => exact weaken' (sent rfl (cmdEvents_plain _) h)
  | cmdDisplayOff => exact weaken' (sent rfl (cmdEvents_plain _) h)
  | cmdClear => exact weaken' (sent rfl (cmdEvents_plain _) h)
  | cmdEntryMode => exact weaken' (sent rfl (cmdEvents_plain _) h)
  | cmdDisplayOn => exact weaken' (sent rfl (cmdEvents_plain _) h)
  | cmdHome => exact weaken' (sent rfl (cmdEvents_plain _) h)
  | cmdSetDdram a => exact weaken' (sent rfl (cmdEvents_plain _) h)

/-! Events. -/

/-- The state that rule R56 leaves when the head event is done without a failure: the rest of the sequence, and `post` in
`fsm` where nothing is left. -/
theorem State.finish_advance {s : State} {e : Event} {rest : List Event} (h : s.seq = e :: rest) (hf : s.fsm ≠ .faulted) :
    s.advance.finish = { s with seq := rest, fsm := if rest = [] then s.post else s.fsm } := by
  cases rest with
  | nil => simp [State.finish, State.advance, h, hf]
  | cons a as => simp [State.finish, State.advance, h]

theorem State.performEvent_wait {s : State} {k : WaitKind} {rest : List Event} (h : s.seq = .wait k :: rest)
    (hf : s.fsm ≠ .faulted) :
    s.performEvent =
      { s with seq := rest, fsm := if rest = [] then s.post else s.fsm, trace := s.trace ++ [.wait k] } := by
  simp only [State.performEvent, h]
  rw [State.finish_advance (s := s.emit (.wait k)) (by simpa using h) (by simpa using hf)]
  rfl

theorem State.performEvent_write_ok {s : State} {b : Byte} {rest : List Event} (h : s.seq = .write b :: rest)
    (hf : s.fsm ≠ .faulted) (ha : s.nextAnswer = .ok) :
    s.performEvent =
      { s with
        seq := rest, fsm := if rest = [] then s.post else s.fsm, trace := s.trace ++ [.write b .ok],
        answers := s.answers.tail, draws := s.draws + 1 } := by
  simp only [State.performEvent, h, ha, State.answered]
  rw [State.finish_advance (s := (s.emit (.write b .ok)).takeAnswer) (by simpa using h) (by simpa using hf)]
  rfl

theorem State.performEvent_probe_ok {s : State} {rest : List Event} (h : s.seq = .probe :: rest)
    (hf : s.fsm ≠ .faulted) (ha : s.nextAnswer = .ok) :
    s.performEvent =
      { s with
        seq := rest, fsm := if rest = [] then s.post else s.fsm, trace := s.trace ++ [.probe .ok],
        answers := s.answers.tail, draws := s.draws + 1 } := by
  simp only [State.performEvent, h, ha, State.answered]
  rw [State.finish_advance (s := (s.emit (.probe .ok)).takeAnswer) (by simpa using h) (by simpa using hf)]
  rfl

/-- A failed write enters FAULTED (rules R56, R191). -/
theorem State.performEvent_write_fail {s : State} {b : Byte} {rest : List Event} (h : s.seq = .write b :: rest)
    (ha : s.nextAnswer = .fail) :
    s.performEvent =
      { s with
        seq := [], fsm := .faulted, faultCause := .writeFail, faultByte := b, trace := s.trace ++ [.write b .fail],
        answers := s.answers.tail, draws := s.draws + 1 } := by
  simp only [State.performEvent, h, ha, State.answered, State.finish, State.busError_fsm, ne_eq, not_true, and_false,
    if_false]
  rfl

/-- A failed probe enters FAULTED (rules R56, R191). -/
theorem State.performEvent_probe_fail {s : State} {rest : List Event} (h : s.seq = .probe :: rest)
    (ha : s.nextAnswer = .fail) :
    s.performEvent =
      { s with
        seq := [], fsm := .faulted, faultCause := .probeFail, faultByte := 0, trace := s.trace ++ [.probe .fail],
        answers := s.answers.tail, draws := s.draws + 1 } := by
  simp only [State.performEvent, h, ha, State.answered, State.finish, State.busError_fsm, ne_eq, not_true, and_false,
    if_false]
  rfl

/-- Everything an event step can do, whatever the event and the answer (rules R56, R191). -/
theorem State.performEvent_cases {s : State} {e : Event} {rest : List Event} (h : s.seq = e :: rest)
    (hf : s.fsm ≠ .faulted) :
    (∃ as n, s.performEvent =
      { s with
        seq := rest, fsm := if rest = [] then s.post else s.fsm, trace := s.trace ++ [tracedOk e], answers := as,
        draws := n })
    ∨ (∃ as n b, e = .write b ∧ s.performEvent =
      { s with
        seq := [], fsm := .faulted, faultCause := .writeFail, faultByte := b, trace := s.trace ++ [.write b .fail],
        answers := as, draws := n })
    ∨ (∃ as n, e = .probe ∧ s.performEvent =
      { s with
        seq := [], fsm := .faulted, faultCause := .probeFail, faultByte := 0, trace := s.trace ++ [.probe .fail],
        answers := as, draws := n }) := by
  cases ha : s.nextAnswer <;> cases e with
  | wait k => exact .inl ⟨_, _, State.performEvent_wait h hf⟩
  | write b =>
    first
      | exact .inl ⟨_, _, State.performEvent_write_ok h hf ha⟩
      | exact .inr (.inl ⟨_, _, b, rfl, State.performEvent_write_fail h ha⟩)
  | probe =>
    first
      | exact .inl ⟨_, _, State.performEvent_probe_ok h hf ha⟩
      | exact .inr (.inr ⟨_, _, rfl, State.performEvent_probe_fail h ha⟩)

/-! Reset. -/

/-- A reset changes the observation only by the write it may cut (rule R220, U5). -/
theorem State.cutWrite_cases (s : State) :
    s.cutWrite = s
    ∨ (∃ b rest, s.seq = .write b :: rest ∧
        (s.cutWrite = { s with draws := s.draws + 1 }
          ∨ s.cutWrite = { s with draws := s.draws + 1, trace := s.trace ++ [.cut b] })) := by
  unfold State.cutWrite State.pendingWrite
  rcases hs : s.seq with _ | ⟨e, rest⟩
  · exact .inl (by simp)
  · cases e with
    | write b =>
      refine .inr ⟨b, rest, rfl, ?_⟩
      by_cases hc : Config.cutWriteReaches s.draws = true
      · exact .inr (by simp [hc])
      · exact .inl (by simp [hc])
    | probe => exact .inl (by simp)
    | wait k => exact .inl (by simp)

/-- Everything the reset input does (rules R34, R220). -/
theorem State.takeReset_cases (s : State) :
    ∃ n tr, s.takeReset =
        { s with
          fsm := .uninit, cols := none, rows := none, seq := [], post := .uninit, faultCause := .none, faultByte := 0,
          resetLine := false, cmdIn := none, draws := n, trace := tr }
      ∧ (tr = s.trace ∨ ∃ b rest, s.seq = .write b :: rest ∧ tr = s.trace ++ [.cut b]) := by
  unfold State.takeReset
  obtain h | ⟨b, rest, hs, h | h⟩ := s.cutWrite_cases
  · exact ⟨s.draws, s.trace, by rw [h]; rfl, .inl rfl⟩
  · exact ⟨s.draws + 1, s.trace, by rw [h]; rfl, .inl rfl⟩
  · exact ⟨s.draws + 1, s.trace ++ [.cut b], by rw [h]; rfl, .inr ⟨b, rest, hs, rfl⟩⟩

end Sys2Proof.Machine
end

