-- ==== Sys2Proof/Laws/PerInstr.lean ====
section
/-! SUPPORT. Per instruction: its encoding lies in its row of the opcode table (mask and match of spec/opcode_table.json). -/

namespace Sys2Proof.Laws.TableRow

/-- The row's mask and match as the opcode table gives them, at the row's width. -/
def rowFits (c : Code) (mask value : Nat) : Prop :=
  match c with
  | .request w => w &&& BitVec.ofNat 32 mask = BitVec.ofNat 32 value
  | .command b => b &&& BitVec.ofNat 8 mask = BitVec.ofNat 8 value

/-- The encoding of an instruction fits its row. -/
def Statement : Instr → Prop
  | .beginInit c r => rowFits (encode (.beginInit c r)) 0xFFFF0000 0x10000000
  | .clear => rowFits (encode .clear) 0xFFFFFFFF 0x20000000
  | .home => rowFits (encode .home) 0xFFFFFFFF 0x30000000
  | .setCursor c r => rowFits (encode (.setCursor c r)) 0xFFFF0000 0x40000000
  | .putChar b => rowFits (encode (.putChar b)) 0xFFFFFF00 0x50000000
  | .stringEnd => rowFits (encode .stringEnd) 0xFFFFFFFF 0x60000000
  | .fs8BitNibble => rowFits (encode .fs8BitNibble) 0xF0 0x30
  | .fs4BitNibble => rowFits (encode .fs4BitNibble) 0xF0 0x20
  | .cmdFunctionSet => rowFits (encode .cmdFunctionSet) 0xFF 0x28
  | .cmdDisplayOff => rowFits (encode .cmdDisplayOff) 0xFF 0x08
  | .cmdClear => rowFits (encode .cmdClear) 0xFF 0x01
  | .cmdEntryMode => rowFits (encode .cmdEntryMode) 0xFF 0x06
  | .cmdDisplayOn => rowFits (encode .cmdDisplayOn) 0xFF 0x0C
  | .cmdHome => rowFits (encode .cmdHome) 0xFF 0x02
  | .cmdSetDdram a => rowFits (encode (.cmdSetDdram a)) 0x80 0x80

theorem beginInit (c r : Byte) : Statement (.beginInit c r) := by
  apply BitVec.eq_of_getLsbD_eq
  intro i hi
  interval_cases i <;> simp

theorem clear : Statement .clear := by simp only [Statement, rowFits, encode]; decide

theorem home : Statement .home := by simp only [Statement, rowFits, encode]; decide

theorem setCursor (c r : Byte) : Statement (.setCursor c r) := by
  apply BitVec.eq_of_getLsbD_eq
  intro i hi
  interval_cases i <;> simp

theorem putChar (b : Byte) : Statement (.putChar b) := by
  apply BitVec.eq_of_getLsbD_eq
  intro i hi
  interval_cases i <;> simp

theorem stringEnd : Statement .stringEnd := by simp only [Statement, rowFits, encode]; decide

theorem fs8BitNibble : Statement .fs8BitNibble := by simp only [Statement, rowFits, encode]; decide

theorem fs4BitNibble : Statement .fs4BitNibble := by simp only [Statement, rowFits, encode]; decide

theorem cmdFunctionSet : Statement .cmdFunctionSet := by simp only [Statement, rowFits, encode]; decide

theorem cmdDisplayOff : Statement .cmdDisplayOff := by simp only [Statement, rowFits, encode]; decide

theorem cmdClear : Statement .cmdClear := by simp only [Statement, rowFits, encode]; decide

theorem cmdEntryMode : Statement .cmdEntryMode := by simp only [Statement, rowFits, encode]; decide

theorem cmdDisplayOn : Statement .cmdDisplayOn := by simp only [Statement, rowFits, encode]; decide

theorem cmdHome : Statement .cmdHome := by simp only [Statement, rowFits, encode]; decide

theorem cmdSetDdram (a : BitVec 7) : Statement (.cmdSetDdram a) := by
  apply BitVec.eq_of_getLsbD_eq
  intro i hi
  interval_cases i <;> simp

end Sys2Proof.Laws.TableRow
end

