-- ==== Sys2Proof/Laws/Step.lean ====
section
/-! SUPPORT. Everything a step can do. -/

namespace Sys2Proof.Machine

theorem step_reset {s : State} (h : s.resetLine = true) : step s = .next s.takeReset := by
  simp [step, nextAction, h]

theorem step_faulted {s : State} (hr : s.resetLine = false) (hf : s.fsm = .faulted) : step s = .next s := by
  simp [step, nextAction, hr, State.fatal, hf]

theorem step_busy {s : State} (hr : s.resetLine = false) (hf : s.fsm ≠ .faulted) (hs : s.seq ≠ []) :
    step s = .next s.performEvent := by
  simp [step, nextAction, hr, State.fatal, hf, State.busy, hs]

theorem step_take_hold {s : State} (hr : s.resetLine = false) (hf : s.fsm ≠ .faulted) (hs : s.seq = [])
    (ha : takeNext s = .hold) : step s = .next s := by
  simp [step, nextAction, hr, State.fatal, hf, State.busy, hs, ha]

theorem step_take_refuse {s s' : State} (hr : s.resetLine = false) (hf : s.fsm ≠ .faulted) (hs : s.seq = [])
    (ha : takeNext s = .refuse s') : step s = .next s'.refuse := by
  simp [step, nextAction, hr, State.fatal, hf, State.busy, hs, ha]

theorem step_take_run {s s' : State} {i : Instr} (hr : s.resetLine = false) (hf : s.fsm ≠ .faulted) (hs : s.seq = [])
    (ha : takeNext s = .run i s') : step s = exec i s' := by
  simp [step, nextAction, hr, State.fatal, hf, State.busy, hs, ha]

/-- A presented word at a ready port with an empty latch (rule R81). -/
theorem takeNext_request {s : State} (hc : s.cmdIn = none) {w : ReqWord} {ws : List ReqWord} (hq : s.requests = w :: ws) :
    takeNext s = decoded (decodeRequest w) { s with requests := ws } := by
  simp [takeNext, hc, hq]

/-- Everything a step can do, where it answers with a next state and the command latch is empty (rules R56, R80, R81,
R191, R220). -/
theorem step_next {s t : State} (hc : s.cmdIn = none) (h : step s = .next t) :
    (s.resetLine = true ∧ t = s.takeReset)
    ∨ (s.resetLine = false ∧ t = s ∧ (s.fsm = .faulted ∨ s.requests = []))
    ∨ (s.resetLine = false ∧ s.fsm ≠ .faulted ∧ s.seq ≠ [] ∧ t = s.performEvent)
    ∨ (s.resetLine = false ∧ s.fsm ≠ .faulted ∧ s.seq = [] ∧ ∃ w ws, s.requests = w :: ws ∧
        ((∃ e, decodeRequest w = .error e ∧ t = { s with requests := ws, refused := true })
          ∨ ∃ i, decodeRequest w = .ok i ∧ exec i { s with requests := ws } = .next t)) := by
  by_cases hr : s.resetLine = true
  · rw [step_reset hr] at h; cases h; exact .inl ⟨hr, rfl⟩
  · replace hr : s.resetLine = false := by simpa using hr
    by_cases hf : s.fsm = .faulted
    · rw [step_faulted hr hf] at h; cases h; exact .inr (.inl ⟨hr, rfl, .inl hf⟩)
    by_cases hs : s.seq = []
    · rcases hq : s.requests with _ | ⟨w, ws⟩
      · rw [step_take_hold hr hf hs (by simp [takeNext, hc, hq])] at h
        cases h; exact .inr (.inl ⟨hr, rfl, .inr rfl⟩)
      · refine .inr (.inr (.inr ⟨hr, hf, hs, w, ws, rfl, ?_⟩))
        have ht := takeNext_request hc hq
        rcases hd : decodeRequest w with e | i
        · rw [step_take_refuse hr hf hs (by rw [ht, hd]; rfl)] at h
          cases h; exact .inl ⟨e, rfl, rfl⟩
        · rw [step_take_run hr hf hs (by rw [ht, hd]; rfl)] at h
          exact .inr ⟨i, rfl, h⟩
    · rw [step_busy hr hf hs] at h; cases h; exact .inr (.inr (.inl ⟨hr, hf, hs, rfl⟩))

end Sys2Proof.Machine
end

