-- ==== Sys2Proof/Tests/Slice0.lean ====
section
/-! SUPPORT. Small tests with expected results from spec/95_test_vectors.md, and the witnesses: states and operands that
meet the hypotheses of each statement together. -/

namespace Sys2Proof.Tests

open Sys2Proof.Machine

/-! ## Small states -/

/-- READY and idle with a geometry, requests presented and answers lined up. -/
def readyWith (c r : Byte) (ws : List ReqWord) (as : List Answer) : State :=
  { State.reset with fsm := .ready, cols := some c, rows := some r, post := .ready, requests := ws, answers := as }

/-- READY 16 by 2 with pending events and answers. -/
def busyWith (es : List Event) (as : List Answer) : State := { readyWith 16 2 [] as with seq := es }

/-- INITIALIZING 16 by 2 with pending events and answers. -/
def initWith (es : List Event) (as : List Answer) : State := { busyWith es as with fsm := .initializing }

/-- FAULTED after a failed write of 0x1C (vector V8.3). -/
def faultedState : State :=
  { readyWith 16 2 [0x30000000] [] with fsm := .faulted, faultCause := .writeFail, faultByte := 0x1C }

/-- UNINIT with requests presented. -/
def uninitWith (ws : List ReqWord) (as : List Answer) : State := { State.reset with requests := ws, answers := as }

/-- The bytes an answer's pending events write. -/
def writesOf : Result → List Byte
  | .next t => t.seq.filterMap Event.writtenByte
  | .fault _ => []
  | .refused _ => []

/-- A next state that a check accepts. -/
def goesTo (r : Result) (check : State → Bool) : Bool :=
  match r with
  | .next t => check t
  | .fault _ => false
  | .refused _ => false

/-! ## Well-formedness: each check refuses an ill-formed term (vectors V3.1, V3.4, V3.5) -/

theorem test_wellFormed_accepts : (Instr.beginInit 16 2).wellFormed = true ∧ (Instr.beginInit 40 4).wellFormed = true := by decide
theorem test_wellFormed_no_columns : (Instr.beginInit 0 2).wellFormed = false := by decide
theorem test_wellFormed_too_many_columns : (Instr.beginInit 41 2).wellFormed = false := by decide
theorem test_wellFormed_no_rows : (Instr.beginInit 16 0).wellFormed = false := by decide
theorem test_wellFormed_too_many_rows : (Instr.beginInit 16 5).wellFormed = false := by decide
/-- The check is the one the machine makes. -/
theorem test_wellFormed_is_geometryLegal :
    (Instr.beginInit 40 4).wellFormed = geometryLegal 40 4 ∧ (Instr.beginInit 41 4).wellFormed = geometryLegal 41 4 := by decide

/-! ## Decoding: a word of each row, written out bit by bit from rule R70's table or rule R77's -/

theorem test_decode_begin : decodeRequest 0b0001_0000_0000_0000_0001_0000_0000_0010#32 = .ok (.beginInit 16 2) := by rfl
theorem test_decode_clear : decodeRequest 0b0010_0000_0000_0000_0000_0000_0000_0000#32 = .ok .clear := by rfl
theorem test_decode_home : decodeRequest 0b0011_0000_0000_0000_0000_0000_0000_0000#32 = .ok .home := by rfl
theorem test_decode_setCursor : decodeRequest 0b0100_0000_0000_0000_0001_0011_0000_0011#32 = .ok (.setCursor 19 3) := by rfl
theorem test_decode_putChar : decodeRequest 0b0101_0000_0000_0000_0000_0000_0100_0001#32 = .ok (.putChar 0x41) := by rfl
theorem test_decode_stringEnd : decodeRequest 0b0110_0000_0000_0000_0000_0000_0000_0000#32 = .ok .stringEnd := by rfl
theorem test_decode_fs8BitNibble : decodeCommand 0b0011_0000#8 = .ok .fs8BitNibble := by rfl
theorem test_decode_fs4BitNibble : decodeCommand 0b0010_0000#8 = .ok .fs4BitNibble := by rfl
theorem test_decode_cmdFunctionSet : decodeCommand 0b0010_1000#8 = .ok .cmdFunctionSet := by rfl
theorem test_decode_cmdDisplayOff : decodeCommand 0b0000_1000#8 = .ok .cmdDisplayOff := by rfl
theorem test_decode_cmdClear : decodeCommand 0b0000_0001#8 = .ok .cmdClear := by rfl
theorem test_decode_cmdEntryMode : decodeCommand 0b0000_0110#8 = .ok .cmdEntryMode := by rfl
theorem test_decode_cmdDisplayOn : decodeCommand 0b0000_1100#8 = .ok .cmdDisplayOn := by rfl
theorem test_decode_cmdHome : decodeCommand 0b0000_0010#8 = .ok .cmdHome := by rfl
theorem test_decode_cmdSetDdram : decodeCommand 0b1100_0101#8 = .ok (.cmdSetDdram 0x45) := by rfl

/-- Vector V7, each refusal by its name. -/
theorem test_decode_refuses :
    decodeRequest 0x00000000 = .error .reservedOpcode ∧ decodeRequest 0x70000000 = .error .reservedOpcode
    ∧ decodeRequest 0xF0000000 = .error .reservedOpcode ∧ decodeRequest 0x20000001 = .error (.reservedBits "CLEAR")
    ∧ decodeRequest 0x10011002 = .error (.reservedBits "BEGIN")
    ∧ decodeRequest 0x50000100 = .error (.reservedBits "PUT_CHAR")
    ∧ decodeRequest 0x6000000F = .error (.reservedBits "STRING_END")
    ∧ decodeRequest 0x30000100 = .error (.reservedBits "HOME")
    ∧ decodeRequest 0x48000501 = .error (.reservedBits "SET_CURSOR") ∧ decodeCommand 0x04 = .error .notEmitted :=
  ⟨rfl, rfl, rfl, rfl, rfl, rfl, rfl, rfl, rfl, rfl⟩

/-! ## Nibble protocol (vectors V1 and V2) -/

theorem test_frame : frame 0x30 .command = 0x38 ∧ frame 0x3F .command = 0x38 ∧ frame 0x40 .data = 0x49
    ∧ frame 0x00 .command = 0x08 ∧ frame 0xF0 .data = 0xF9 := by decide
theorem test_nib : nib 0xF0 .data = [.write 0xFD, .wait .en, .write 0xF9] := by decide
theorem test_cmd_events : cmdEvents 0x28 = [.write 0x2C, .wait .en, .write 0x28, .write 0x8C, .wait .en, .write 0x88, .wait .cmd] := by
  decide
theorem test_data_writes : (dataEvents 0x7E).filterMap Event.writtenByte = [0x7D, 0x79, 0xED, 0xE9]
    ∧ (dataEvents 0x00).filterMap Event.writtenByte = [0x0D, 0x09, 0x0D, 0x09] := by decide

/-! ## The address calculator (vectors V5) -/

theorem test_ddram_16x2 : ddramAddr 5 1 16 2 = 0x45 ∧ ddramAddr 16 2 16 2 = 0x4F ∧ ddramAddr 255 255 16 2 = 0x4F
    ∧ ddramAddr 0 3 16 2 = 0x40 := by decide
theorem test_ddram_20x4 : ddramAddr 19 3 20 4 = 0x67 ∧ ddramAddr 20 4 20 4 = 0x67 ∧ ddramAddr 19 2 20 4 = 0x27
    ∧ ddramAddr 0 3 20 4 = 0x54 := by decide
theorem test_ddram_edges : ddramAddr 19 2 40 2 = 0x53 ∧ ddramAddr 39 3 40 4 = 0x7B ∧ ddramAddr 255 255 1 1 = 0x00
    ∧ ddramAddr 255 255 16 1 = 0x0F ∧ setDdramByte 0x45 = 0xC5 := by decide

/-! ## One step of each request (vectors V3 to V6), presented as its word -/

/-- Vector V3.1: accepted from reset, STATUS 0x0005 while it runs. -/
theorem test_begin_accepted : goesTo (step (uninitWith [0x10001002] [])) (fun t =>
    t.status == 0x0005 && t.cols == some 16 && t.rows == some 2 && t.seq.length == 52 && !t.refused) = true := by decide
/-- Vectors V3.4, V3.5: refused, UNINIT, no event. -/
theorem test_begin_refused : goesTo (step (uninitWith [0x10002902] [])) (fun t =>
    t.refused && t.status == 0x0000 && t.cols == none && t.seq == [] && t.requests == []) = true := by decide
/-- Vector V4.1. -/
theorem test_clear : goesTo (step (readyWith 16 2 [0x20000000] [])) (fun t =>
    t.status == 0x0006 && t.seq.filterMap Event.writtenByte == [0x0C, 0x08, 0x1C, 0x18]
      && t.seq.getLast? == some (.wait .cmd)) = true := by decide
/-- Vector V3.6. -/
theorem test_clear_uninit : goesTo (step (uninitWith [0x20000000] [])) (fun t => t.refused && t.status == 0x0000) = true := by decide
/-- Vector V4.2. -/
theorem test_home : writesOf (step (readyWith 16 2 [0x30000000] [])) = [0x0C, 0x08, 0x2C, 0x28] := by decide
/-- Vector V5, 16 by 2: (5, 1). -/
theorem test_setCursor : writesOf (step (readyWith 16 2 [0x40000501] [])) = [0xCC, 0xC8, 0x5C, 0x58] := by decide
/-- Vector V5, 40 by 2: (19, 2), row clamped. -/
theorem test_setCursor_clamped : writesOf (step (readyWith 40 2 [0x40001302] [])) = [0xDC, 0xD8, 0x3C, 0x38] := by decide
/-- Vector V6.3. -/
theorem test_putChar : writesOf (step (readyWith 16 2 [0x500000FF] [])) = [0xFD, 0xF9, 0xFD, 0xF9] := by decide
/-- Vector V6.6. -/
theorem test_putChar_uninit : goesTo (step (uninitWith [0x50000041] [])) (fun t => t.refused && t.seq == []) = true := by decide
/-- Vector V6.5. -/
theorem test_stringEnd : goesTo (step (readyWith 16 2 [0x60000000] [])) (fun t => t.seq == [.wait .str] && t.fsm == .ready) = true := by
  decide
/-- Vector V7: an illegal word is consumed and refused. -/
theorem test_illegal_word : goesTo (step (readyWith 16 2 [0x20000001, 0x20000000] [])) (fun t =>
    t.refused && t.seq == [] && t.requests == [0x20000000]) = true := by decide
/-- Vector V3.8: a word presented while INITIALIZING is not consumed. -/
theorem test_held_while_busy : goesTo (step { initWith [.wait .en, .write 0x38] [] with requests := [0x20000000] }) (fun t =>
    t.requests == [0x20000000] && t.seq == [.write 0x38] && !t.refused) = true := by decide

/-! ## The emitted commands alone: their bytes as rules R77, R122 to R124 and vectors V2, V3.2 have them -/

theorem test_fs8BitNibble : writesOf (exec .fs8BitNibble (busyWith [] [])) = [0x3C, 0x38] := by decide
theorem test_fs4BitNibble : writesOf (exec .fs4BitNibble (busyWith [] [])) = [0x2C, 0x28] := by decide
theorem test_cmdFunctionSet : writesOf (exec .cmdFunctionSet (busyWith [] [])) = [0x2C, 0x28, 0x8C, 0x88] := by decide
theorem test_cmdDisplayOff : writesOf (exec .cmdDisplayOff (busyWith [] [])) = [0x0C, 0x08, 0x8C, 0x88] := by decide
theorem test_cmdClear : writesOf (exec .cmdClear (busyWith [] [])) = [0x0C, 0x08, 0x1C, 0x18] := by decide
theorem test_cmdEntryMode : writesOf (exec .cmdEntryMode (busyWith [] [])) = [0x0C, 0x08, 0x6C, 0x68] := by decide
theorem test_cmdDisplayOn : writesOf (exec .cmdDisplayOn (busyWith [] [])) = [0x0C, 0x08, 0xCC, 0xC8] := by decide
theorem test_cmdHome : writesOf (exec .cmdHome (busyWith [] [])) = [0x0C, 0x08, 0x2C, 0x28] := by decide
theorem test_cmdSetDdram : writesOf (exec (.cmdSetDdram 0x67) (busyWith [] [])) = [0xEC, 0xE8, 0x7C, 0x78] := by decide
/-- The latch: a placed command byte is what the next step runs, from reset. -/
theorem test_latch : writesOf (step (State.reset.withFetchWord 8 0x0C)) = [0x0C, 0x08, 0xCC, 0xC8] := by decide
/-- A placed request word is what the next step runs, from reset. -/
theorem test_placed_request : goesTo (step (State.reset.withFetchWord 32 0x10001404)) (fun t =>
    t.fsm == .initializing && t.cols == some 20 && t.rows == some 4) = true := by decide

/-! ## Bus errors and reset (vectors V8) -/

/-- Vector V8.1. -/
theorem test_probe_fails : goesTo (step (initWith (initSeq true) [.fail])) (fun t =>
    t.status == 0x002B && t.trace == [.probe .fail] && t.seq == [] && t.cols == some 16 && t.rows == some 2) = true := by decide
/-- Vector V8.2. -/
theorem test_first_write_fails : goesTo (step (initWith (initSeq false) [.fail])) (fun t =>
    t.status == 0x3C1B && t.trace == [.write 0x3C .fail] && t.seq == []) = true := by decide
/-- Vector V8.3: the third write of CLEAR. -/
theorem test_clear_write_fails : goesTo (step (busyWith ((cmdEvents 0x01).drop 3) [.fail])) (fun t =>
    t.status == 0x1C1B && t.seq == [] && t.trace == [.write 0x1C .fail]) = true := by decide
/-- Vector V8.4. -/
theorem test_faulted_holds : step faultedState = .next faultedState := by rfl
/-- Vector V8.5. -/
theorem test_reset_from_faulted : goesTo (step { faultedState with resetLine := true, refused := true }) (fun t =>
    t.status == 0x0000 && t.fsm == .uninit && t.refused && t.portReady) = true := by decide
/-- The last event of a sequence (rule R127). -/
theorem test_init_completes : goesTo (step (initWith [.wait .cmd] [])) (fun t => t.status == 0x0002 && t.portReady) = true := by decide

/-! ## Host macros (L1.4 to L1.8, vectors V9) -/

theorem test_fmt_source : fmt 1234 2 = some (ascii ['1', '2', '.', '3', '4']) ∧ fmt (-1234) 2 = some (ascii ['-', '1', '2', '.', '3', '4'])
    ∧ fmt 567 1 = some (ascii ['5', '.', '6']) ∧ fmt 0 2 = some (ascii ['0', '.', '0', '0']) := by decide
theorem test_fmt_derived : fmt (-5) 1 = some (ascii ['-', '0', '.', '0']) ∧ fmt (-99) 1 = some (ascii ['-', '0', '.', '9'])
    ∧ fmt 123456 2 = some (ascii ['1', '2', '3', '4', '.', '5', '6']) ∧ fmt 7 3 = none := by decide
/-- Vectors V9.7, V9.8, V9.9. -/
theorem test_print : printLine 8 0 [] = .setCursor 0 0 :: List.replicate 8 (.putChar 0x20) ++ [.stringEnd]
    ∧ sendString [] = [.stringEnd]
    ∧ print (ascii ['H', 'i']) = [.clear, .home, .putChar 0x48, .putChar 0x69, .stringEnd] := by decide
/-- Vector V9.5, and L1.10's second line. -/
theorem test_sensor : printSensorData 10 2345 (-1578) 980 = some (
      .setCursor 0 0 :: sendString (ascii ['T', 'e', 'm', 'p', ':', ' ', '2', '3', '.', '4'])
      ++ .setCursor 0 1 :: sendString (ascii ['G', 'x', ':', ' ', '-', '1', '5', '.', '7', '8'])
      ++ .setCursor 0 2 :: sendString (ascii ['A', 'x', ':', ' ', '9', '.', '8', '0', ' ', 'g'])) := by decide

/-! ## Witnesses: the invariant -/

/-- READY 16 by 2, idle, with anything presented and lined up. -/
theorem witness_inv_ready (ws : List ReqWord) (as : List Answer) : (readyWith 16 2 ws as).Inv := by
  constructor <;> simp [readyWith, State.reset, geometryLegal, Config.maxColumns, Config.maxRows]

/-- READY, performing STRING_END's wait. -/
theorem witness_inv_busy (as : List Answer) : (busyWith [.wait .str] as).Inv := by
  constructor <;> simp [busyWith, readyWith, State.reset, geometryLegal, Config.maxColumns, Config.maxRows]

/-- READY, performing CLEAR's last write and wait. -/
theorem witness_inv_writing (as : List Answer) : (busyWith [.write 0x18, .wait .cmd] as).Inv := by
  constructor <;> simp [busyWith, readyWith, State.reset, geometryLegal, Config.maxColumns, Config.maxRows, wireLegal]

/-- INITIALIZING with one event left, and with a probe ahead. -/
theorem witness_inv_init (as : List Answer) :
    (initWith [.wait .cmd] as).Inv ∧ (initWith [.probe, .wait .cmd] as).Inv ∧ (initWith [.write 0xC8] as).Inv := by
  refine ⟨?_, ?_, ?_⟩ <;> constructor <;>
    simp [initWith, busyWith, readyWith, State.reset, geometryLegal, Config.maxColumns, Config.maxRows, wireLegal]

/-- UNINIT with anything presented and lined up. -/
theorem witness_inv_uninit (ws : List ReqWord) (as : List Answer) : (uninitWith ws as).Inv := by
  constructor <;> simp [uninitWith, State.reset]

theorem witness_inv_faulted : faultedState.Inv := by
  constructor <;> simp [faultedState, readyWith, State.reset, geometryLegal, Config.maxColumns, Config.maxRows, wireLegal]

/-- A state that keeps a write and a cut write in its trace. -/
theorem witness_inv_traced : ({ busyWith [] [] with trace := [.write 0xFC .ok, .cut 0x18] } : State).Inv := by
  constructor <;> simp [busyWith, readyWith, State.reset, geometryLegal, Config.maxColumns, Config.maxRows, wireLegal, Traced.writtenByte]

/-! ## Witnesses: decoding and the port -/

theorem witness_RequestWordHasOneMeaning : decodeRequest 0x40000501 = .ok (.setCursor 5 1) := by rfl

/-- Each clause of the illegal words, and a legal word. -/
theorem witness_IllegalWordsAreTheReservedOnes :
    (0x00000000#32 >>> 28 = 0) ∧ 7 ≤ (0x70000000#32 >>> 28).toNat ∧ (0x10010000#32 >>> 28 = 1 ∧ 0x10010000#32 &&& 0x0FFF0000 ≠ 0)
    ∧ (0x60000001#32 >>> 28 = 6 ∧ 0x60000001#32 &&& 0x0FFFFFFF ≠ 0) ∧ (0x50000100#32 >>> 28 = 5 ∧ 0x50000100#32 &&& 0x0FFFFF00 ≠ 0)
    ∧ ¬ ∃ e, decodeRequest 0x5000FF00 = .ok e := by
  refine ⟨by decide, by decide, by decide, by decide, by decide, ?_⟩
  rintro ⟨i, h⟩; revert h
  rw [show decodeRequest 0x5000FF00 = .error (.reservedBits "PUT_CHAR") from rfl]; simp

theorem witness_IllegalWordsAreTheReservedOnes_legal : ¬ ∃ e, decodeRequest 0x500000FF = .error e := by
  rintro ⟨e, h⟩; revert h
  rw [show decodeRequest 0x500000FF = .ok (.putChar 0xFF) from rfl]; simp

theorem witness_StepRunsTheDecodedRequest : (readyWith 16 2 [0x20000000] []).ReadyToTake
    ∧ (readyWith 16 2 [0x20000000] []).requests = [0x20000000] ∧ decodeRequest 0x20000000 = .ok .clear :=
  ⟨⟨rfl, rfl, rfl, by decide⟩, rfl, rfl⟩

theorem witness_PlacedInstructionRunsNext : State.reset.fsm ≠ .faulted ∧ decodeTableWord 32 0x10001002 = some (.beginInit 16 2)
    ∧ decodeTableWord 8 0xFF = some (.cmdSetDdram 0x7F) := ⟨by decide, rfl, rfl⟩

theorem witness_PortHoldsWhileNotReady :
    ((initWith [.wait .cmd] []).portReady = false ∧ (initWith [.wait .cmd] []).resetLine = false)
    ∧ Instr.home.isRequest = true ∧ faultedState.portReady = false ∧ faultedState.fsm = .faulted ∧ faultedState.resetLine = false
    ∧ ((readyWith 16 2 [0x20000001] []).portReady = true ∧ (readyWith 16 2 [0x20000001] []).resetLine = false) := by decide

/-- An illegal word in READY; a CLEAR in UNINIT; a BEGIN with 41 columns in UNINIT and with 0 rows in READY. -/
theorem witness_RefusalOnlySetsTheMark :
    (decodeRequest 0x20000001 = .error (.reservedBits "CLEAR") ∧ (readyWith 16 2 [0x20000001] []).ReadyToTake)
    ∧ (decodeRequest 0x20000000 = .ok .clear ∧ (uninitWith [0x20000000] []).ReadyToTake ∧ ∀ c r, Instr.clear ≠ .beginInit c r)
    ∧ (decodeRequest 0x10002901 = .ok (.beginInit 41 1) ∧ (uninitWith [0x10002901] []).ReadyToTake
        ∧ ¬ (1 ≤ (41#8).toNat ∧ (41#8).toNat ≤ 40 ∧ 1 ≤ (1#8).toNat ∧ (1#8).toNat ≤ 4))
    ∧ (decodeRequest 0x10002800 = .ok (.beginInit 40 0) ∧ (readyWith 16 2 [0x10002800] []).ReadyToTake
        ∧ ¬ (1 ≤ (40#8).toNat ∧ (40#8).toNat ≤ 40 ∧ 1 ≤ (0#8).toNat ∧ (0#8).toNat ≤ 4)) :=
  ⟨⟨rfl, rfl, rfl, rfl, by decide⟩, ⟨rfl, ⟨rfl, rfl, rfl, by decide⟩, fun _ _ => nofun⟩,
    ⟨rfl, ⟨rfl, rfl, rfl, by decide⟩, by decide⟩, ⟨rfl, ⟨rfl, rfl, rfl, by decide⟩, by decide⟩⟩

/-- The mark set, and a step. -/
theorem witness_RefusalOnlySetsTheMark_kept :
    ∃ t, step { busyWith [.wait .str] [] with refused := true, resetLine := true } = .next t ∧ t.refused = true := ⟨_, rfl, rfl⟩

/-- Rule R82 at its bounds: geometries 1 by 1 and 40 by 4 are legal, 0, 41, 5 are not; UNINIT, READY at a ready port. -/
theorem witness_AcceptanceTable :
    ((uninitWith [] []).portReady = true ∧ (uninitWith [] []).fsm = .uninit)
    ∧ ((readyWith 40 4 [] []).portReady = true ∧ (readyWith 40 4 [] []).fsm = .ready) ∧ (readyWith 40 4 [] []).HoldsGeometry 40 4
    ∧ (1 ≤ (40#8).toNat ∧ (40#8).toNat ≤ 40 ∧ 1 ≤ (4#8).toNat ∧ (4#8).toNat ≤ 4) ∧ 1 ≤ (1#8).toNat
    ∧ ¬ (1 ≤ (16#8).toNat ∧ (16#8).toNat ≤ 40 ∧ 1 ≤ (5#8).toNat ∧ (5#8).toNat ≤ 4)
    ∧ Instr.stringEnd.isRequest = true ∧ ∀ c r, Instr.stringEnd ≠ .beginInit c r :=
  ⟨by decide, by decide, ⟨rfl, rfl, by decide⟩, by decide, by decide, by decide, rfl, fun _ _ => nofun⟩

/-! ## Witnesses: BEGIN -/

theorem witness_BeginAccepted :
    ((uninitWith [] []).seq = [] ∧ (uninitWith [] []).fsm = .uninit) ∧ ((readyWith 16 2 [] []).seq = [] ∧ (readyWith 16 2 [] []).fsm = .ready)
    ∧ geometryLegal 1 1 = true ∧ geometryLegal 40 4 = true ∧ geometryLegal 41 4 = false
    ∧ (initWith [.wait .cmd] []).portReady = false
    ∧ ((initWith [.write 0x3C, .wait .en] [.fail]).fsm = .initializing ∧ (initWith [.write 0x3C, .wait .en] [.fail]).resetLine = false
        ∧ (Event.write 0x3C).onBus = true ∧ (initWith [.write 0x3C, .wait .en] [.fail]).nextAnswer = .fail) := by decide

theorem witness_BeginAccepted_two : ∃ t t', exec (.beginInit 1 1) (uninitWith [] []) = .next t
    ∧ exec (.beginInit 40 4) (uninitWith [] []) = .next t' := ⟨_, _, rfl, rfl⟩

theorem witness_InitCompletesToReady :
    (initWith [.wait .cmd] []).fsm = .initializing ∧ (initWith [.wait .cmd] []).post = .ready ∧ (initWith [.wait .cmd] []).resetLine = false
    ∧ (initWith [.write 0xC8] [.ok]).seq = [.write 0xC8] ∧ (Event.write 0xC8).onBus = true
    ∧ (initWith [.write 0xC8] [.ok]).nextAnswer = .ok ∧ (Event.wait WaitKind.cmd).onBus = false := by decide

theorem witness_ReinitializationFromReady :
    ((readyWith 16 2 [] []).fsm = .ready ∧ (readyWith 16 2 [] []).seq = [] ∧ geometryLegal 20 4 = true)
    ∧ (initWith [.wait .cmd] []).Inv ∧ (initWith [.wait .cmd] []).fsm = .initializing ∧ (initWith [.wait .cmd] []).resetLine = false
    ∧ ∃ t, step (initWith [.wait .cmd] []) = .next t :=
  ⟨by decide, (witness_inv_init []).1, rfl, rfl, _, rfl⟩

/-- The three ends of rule R130: the last event, an event before it, a failed one. -/
theorem witness_InitIsNotCancelled :
    (initWith [.wait .cmd] []).Inv ∧ (initWith [.probe, .wait .cmd] [.ok]).Inv ∧ (initWith [.probe, .wait .cmd] [.fail]).Inv
    ∧ (initWith [.probe, .wait .cmd] [.fail]).fsm = .initializing ∧ (initWith [.probe, .wait .cmd] [.fail]).resetLine = false :=
  ⟨(witness_inv_init []).1, (witness_inv_init _).2.1, (witness_inv_init _).2.1, rfl, rfl⟩

theorem witness_BeginReachesReady :
    (uninitWith [0x10001002] (List.replicate 29 .ok)).ReadyToTake ∧ (uninitWith [0x10001002] (List.replicate 29 .ok)).fsm = .uninit
    ∧ geometryLegal 16 2 = true
    ∧ (uninitWith [0x10001002] (List.replicate 29 .ok)).requests = [0x10000000#32 ||| (16#8).setWidth 32 <<< 8 ||| (2#8).setWidth 32]
    ∧ (uninitWith [0x10001002] (List.replicate 29 .ok)).answers
        = List.replicate (if (uninitWith [0x10001002] (List.replicate 29 .ok)).probeAtBegin then 29 else 28) .ok ++ [] :=
  ⟨⟨rfl, rfl, rfl, by decide⟩, rfl, by decide, by decide, by decide⟩

/-! ## Witnesses: Ready-state requests and the calculator -/

theorem witness_ReadyRequestAcceptance :
    (readyWith 16 2 [] []).Inv ∧ (readyWith 16 2 [] []).fsm = .ready ∧ (readyWith 16 2 [] []).seq = []
    ∧ (readyWith 16 2 [] []).HoldsGeometry 16 2 ∧ Instr.home.isRequest = true ∧ (∀ c r, Instr.home ≠ .beginInit c r)
    ∧ ((uninitWith [] []).fsm = .uninit ∧ (uninitWith [] []).seq = []) ∧ faultedState.fsm = .faulted
    ∧ (busyWith [.wait .str] []).seq ≠ [] :=
  ⟨witness_inv_ready [] [], rfl, rfl, ⟨rfl, rfl, by decide⟩, rfl, fun _ _ => nofun, ⟨rfl, rfl⟩, rfl, by decide⟩

theorem witness_ClearAndHomeSendTheirCommands : (readyWith 1 1 [] []).fsm = .ready ∧ (readyWith 1 1 [] []).seq = [] := by decide

theorem witness_SetCursorSendsTheAddress : (readyWith 40 4 [] []).fsm = .ready ∧ (readyWith 40 4 [] []).seq = []
    ∧ (readyWith 40 4 [] []).HoldsGeometry 40 4 := ⟨rfl, rfl, rfl, rfl, by decide⟩

theorem witness_PutCharSendsItsByte : (readyWith 16 2 [] []).fsm = .ready ∧ (readyWith 16 2 [] []).seq = [] := by decide

theorem witness_StringEndOnlyWaits : ((readyWith 16 2 [] []).fsm = .ready ∧ (readyWith 16 2 [] []).seq = [])
    ∧ (busyWith [.wait .str] []).fsm = .ready ∧ (busyWith [.wait .str] []).post = .ready
    ∧ (busyWith [.wait .str] []).resetLine = false ∧ (busyWith [.wait .str] []).seq = [.wait .str] := by decide

theorem witness_DdramAddressFormula : geometryLegal 1 1 = true ∧ geometryLegal 40 4 = true := by decide

/-- Both sides of the bound, and both ends of the row counts. -/
theorem witness_ClampSaturates : 1 ≤ (1#8).toNat ∧ (39#8).toNat < (40#8).toNat ∧ (40#8).toNat ≤ (40#8).toNat ∧ (4#8).toNat ≤ 4
    ∧ geometryLegal 40 4 = true ∧ (readyWith 40 4 [] []).fsm = .ready ∧ (readyWith 40 4 [] []).seq = []
    ∧ (readyWith 40 4 [] []).HoldsGeometry 40 4 :=
  ⟨by decide, by decide, by decide, by decide, by decide, rfl, rfl, rfl, rfl, by decide⟩

/-- Each row of rule R146's table, 21 columns with 3 and with 4 rows. -/
theorem witness_AddressRanges : (0#8).toNat = 0 ∧ (1#8).toNat = 1 ∧ (2#8).toNat = 2 ∧ 3 ≤ (3#8).toNat ∧ 3 ≤ (255#8).toNat
    ∧ geometryLegal 21 3 = true ∧ geometryLegal 21 4 = true ∧ 20 < (21#8).toNat ∧ 3 ≤ (3#8).toNat ∧ (4#8).toNat = 4 := by decide

/-- The last column and row, and beyond. -/
theorem witness_ClampIdentity : (readyWith 20 4 [] []).HoldsGeometry 20 4 ∧ (20#8).toNat - 1 ≤ (19#8).toNat ∧ (4#8).toNat - 1 ≤ (3#8).toNat
    ∧ (20#8).toNat - 1 ≤ (255#8).toNat := ⟨⟨rfl, rfl, by decide⟩, by decide, by decide, by decide⟩

theorem witness_NoCursorState : (readyWith 16 2 [] []).fsm = .ready ∧ (∃ t, exec (.setCursor 5 1) (readyWith 16 2 [] []) = .next t)
    ∧ (∃ t, exec .home (readyWith 16 2 [] []) = .next t) ∧ (∃ t, exec .home (readyWith 16 2 [0x20000000] [.ok]) = .next t) :=
  ⟨rfl, ⟨_, rfl⟩, ⟨_, rfl⟩, ⟨_, rfl⟩⟩

/-! ## Witnesses: nibbles, events, faults, reset -/

theorem witness_NibblePulse : (busyWith (nib 0xF0 .data ++ [.wait .data]) [.fail]).fsm ≠ .faulted
    ∧ (busyWith (nib 0xF0 .data ++ [.wait .data]) [.fail]).resetLine = false
    ∧ (busyWith (nib 0xF0 .data ++ [.wait .data]) [.fail]).nextAnswer = .fail
    ∧ (busyWith [.write (frame 0xF0 .data), .wait .data] [.fail]).fsm ≠ .faulted
    ∧ (busyWith [.write (frame 0xF0 .data), .wait .data] [.fail]).nextAnswer = .fail := by decide

/-- A byte of the set that a nibble brings, one pending and one in a trace. -/
theorem witness_TransmittedByteSet : ((0xFC#8).getLsbD 3 = true ∧ (0xFC#8).getLsbD 1 = false) ∧ .write 0xFC ∈ nib 0xF0 .command
    ∧ (busyWith [.write 0x18, .wait .cmd] []).Inv ∧ .write 0x18 ∈ (busyWith [.write 0x18, .wait .cmd] []).seq
    ∧ ({ busyWith [] [] with trace := [.write 0xFC .ok, .cut 0x18] } : State).Inv
    ∧ (Traced.write 0xFC .ok).writtenByte = some 0xFC ∧ (Traced.cut 0x18).writtenByte = some 0x18 :=
  ⟨by decide, by decide, witness_inv_writing [], by decide, witness_inv_traced, rfl, rfl⟩

theorem witness_DataModeOnlyFromPutChar : ∃ t, exec (.putChar 0x41) (readyWith 16 2 [] []) = .next t ∧ .write 0x4D ∈ t.seq
    ∧ .write 0x4D ∉ (readyWith 16 2 [] []).seq ∧ (0x4D#8).getLsbD 0 = true := ⟨_, rfl, by decide, by decide, by decide⟩

theorem witness_CommandsAppendTheirEvents : State.reset.fsm ≠ .faulted ∧ (busyWith [.wait .str] []).fsm ≠ .faulted := by decide

/-- Each event, each answer, an event that ends a sequence and one that does not, and an idle block. -/
theorem witness_EventStep : ((busyWith [.wait .str] []).fsm ≠ .faulted ∧ (busyWith [.wait .str] []).resetLine = false)
    ∧ ((initWith [.write 0x3C, .wait .en] [.ok]).nextAnswer = .ok ∧ (initWith [.write 0x3C, .wait .en] [.ok]).fsm ≠ .faulted)
    ∧ (initWith [.write 0x3C, .wait .en] [.fail]).nextAnswer = .fail
    ∧ (initWith [.probe, .wait .en] [.ok]).nextAnswer = .ok ∧ (initWith [.probe, .wait .en] [.fail]).nextAnswer = .fail
    ∧ (State.reset.seq = [] ∧ State.reset.cmdIn = none ∧ State.reset.requests = [] ∧ State.reset.resetLine = false) := by decide

/-- Each kind of entry that is no wait, each answer. -/
theorem witness_BusInterface : (Event.write 0x3C).onBus = true ∧ Event.probe.onBus = true
    ∧ ∀ t ∈ [Traced.write 0x3C .ok, .write 0x3C .fail, .probe .ok, .probe .fail, .cut 0x3C], ∀ k, t ≠ .wait k := by
  refine ⟨rfl, rfl, fun t ht k h => ?_⟩
  subst h
  simp at ht

theorem witness_BusErrorEntry : (initWith [.probe, .wait .en] [.fail]).fsm ≠ .faulted ∧ (initWith [.probe, .wait .en] [.fail]).resetLine = false
    ∧ Event.probe.onBus = true ∧ (initWith [.probe, .wait .en] [.fail]).nextAnswer = .fail
    ∧ (initWith [.write 0x3C] [.fail]).nextAnswer = .fail ∧ (Event.write 0x3C).onBus = true
    ∧ faultedState.fsm = .faulted ∧ faultedState.resetLine = false := by decide

/-- A step that records nothing, one that records a probe's failure, one a write's, and the loads of the last two clauses. -/
theorem witness_FaultRecord : (faultedState.Inv ∧ step faultedState = .next faultedState ∧ faultedState.resetLine = false)
    ∧ ((initWith [.probe, .wait .cmd] [.fail]).Inv ∧ ∃ t, step (initWith [.probe, .wait .cmd] [.fail]) = .next t ∧ t.faultCause = .probeFail)
    ∧ ((initWith [.write 0xC8] [.fail]).Inv ∧ ∃ t, step (initWith [.write 0xC8] [.fail]) = .next t ∧ t.faultByte = 0xC8)
    ∧ (∃ t, exec (.beginInit 16 2) (uninitWith [] []) = .next t ∧ .probe ∈ t.seq)
    ∧ ∃ t, exec .stringEnd (readyWith 16 2 [] []) = .next t ∧ .wait .str ∈ t.seq :=
  ⟨⟨witness_inv_faulted, rfl, rfl⟩, ⟨(witness_inv_init _).2.1, _, rfl, rfl⟩, ⟨(witness_inv_init _).2.2, _, rfl, rfl⟩,
    ⟨_, rfl, by decide⟩, ⟨_, rfl, by decide⟩⟩

theorem witness_FaultedUntilReset : faultedState.fsm = .faulted ∧ step faultedState = .next faultedState
    ∧ ∃ t, step { faultedState with resetLine := true } = .next t ∧ t.fsm ≠ .faulted := ⟨rfl, rfl, _, rfl, by decide⟩

theorem witness_SequenceRunsToCompletion : (busyWith (cmdEvents 0x01) (List.replicate 4 .ok)).seq = cmdEvents 0x01 ∧ cmdEvents 0x01 ≠ []
    ∧ (busyWith (cmdEvents 0x01) (List.replicate 4 .ok)).fsm ≠ .faulted ∧ (busyWith (cmdEvents 0x01) (List.replicate 4 .ok)).resetLine = false
    ∧ (busyWith (cmdEvents 0x01) (List.replicate 4 .ok)).answers = List.replicate (busCount (cmdEvents 0x01)) .ok ++ [] := by decide

/-- The third write of CLEAR fails (vector V8.3); the first event fails. -/
theorem witness_FailureEndsTheSequence :
    ((busyWith (cmdEvents 0x01) [.ok, .ok, .fail]).seq = (cmdEvents 0x01).take 3 ++ .write 0x1C :: (cmdEvents 0x01).drop 4
      ∧ (Event.write 0x1C).onBus = true ∧ (busyWith (cmdEvents 0x01) [.ok, .ok, .fail]).fsm ≠ .faulted
      ∧ (busyWith (cmdEvents 0x01) [.ok, .ok, .fail]).resetLine = false
      ∧ (busyWith (cmdEvents 0x01) [.ok, .ok, .fail]).answers = List.replicate (busCount ((cmdEvents 0x01).take 3)) .ok ++ .fail :: [])
    ∧ ((initWith [.probe, .wait .cmd] [.fail]).seq = [] ++ .probe :: [.wait .cmd]
      ∧ (initWith [.probe, .wait .cmd] [.fail]).answers = List.replicate (busCount []) .ok ++ .fail :: []) := by decide

/-- The reset input while a write is pending, while FAULTED, while idle. -/
theorem witness_ResetInput : ({ busyWith [.write 0x18, .wait .cmd] [] with resetLine := true } : State).resetLine = true
    ∧ ({ faultedState with resetLine := true } : State).resetLine = true ∧ ({ State.reset with resetLine := true } : State).resetLine = true
    ∧ Instr.clear.isRequest = true ∧ geometryLegal 16 2 = true := by decide

theorem witness_StatusWord : (faultedState.status.getLsbD 3 = true ∧ faultedState.resetLine = false) ∧ step faultedState = .next faultedState :=
  ⟨by decide, rfl⟩

theorem witness_PostRule :
    (∃ t, exec (.beginInit 16 2) (uninitWith [] []) = .next t ∧ t.fsm = .initializing) ∧ (uninitWith [] []).fsm ≠ .initializing
    ∧ (Instr.clear.isRequest = true ∧ (∀ c r, Instr.clear ≠ .beginInit c r)
        ∧ ∃ t, exec .clear (readyWith 16 2 [] []) = .next t ∧ t.seq ≠ (readyWith 16 2 [] []).seq)
    ∧ ((initWith [.wait .cmd] []).fsm ≠ .faulted ∧ (initWith [.wait .cmd] []).resetLine = false ∧ (initWith [.wait .cmd] []).seq ≠ []
        ∧ ∃ t, step (initWith [.wait .cmd] []) = .next t ∧ t.fsm ≠ .faulted ∧ t.seq = [])
    ∧ ∃ t, step (initWith [.wait .en, .wait .cmd] []) = .next t ∧ t.fsm ≠ .faulted ∧ t.seq ≠ [] :=
  ⟨⟨_, rfl, by decide⟩, by decide, ⟨rfl, fun _ _ => nofun, _, rfl, by decide⟩,
    ⟨by decide, rfl, by decide, _, rfl, by decide, by decide⟩, ⟨_, rfl, by decide, by decide⟩⟩

/-- Each request accepted: the five of READY, and BEGIN from UNINIT and from READY. -/
theorem witness_EventCounts : (readyWith 16 2 [] []).fsm = .ready ∧ (readyWith 16 2 [] []).seq = []
    ∧ (∀ i ∈ [Instr.clear, .home, .setCursor 5 1, .putChar 0x41, .stringEnd, .beginInit 20 4],
        goesTo (exec i (readyWith 16 2 [] [])) (fun t => t.seq != []) = true)
    ∧ geometryLegal 20 4 = true ∧ (uninitWith [] []).seq = [] ∧ (uninitWith [] []).fsm = .uninit
    ∧ goesTo (exec (.beginInit 20 4) (uninitWith [] [])) (fun t => t.seq != []) = true := by decide

theorem witness_InitSequenceEvents : ∃ t, exec (.beginInit 40 4) (readyWith 16 2 [] []) = .next t ∧ (readyWith 16 2 [] []).seq = []
    ∧ (readyWith 16 2 [] []).fsm = .ready ∧ geometryLegal 40 4 = true := ⟨_, rfl, rfl, rfl, by decide⟩

/-- The hypotheses are those of `witness_EventCounts`. -/
theorem witness_MinimumDurations : (∃ t, exec .home (readyWith 16 2 [] []) = .next t) ∧ (∃ t, exec (.putChar 0) (readyWith 16 2 [] []) = .next t)
    ∧ (∃ t, exec .stringEnd (readyWith 16 2 [] []) = .next t)
    ∧ ∃ t, exec (.beginInit 1 1) (uninitWith [] []) = .next t ∧ geometryLegal 1 1 = true :=
  ⟨⟨_, rfl⟩, ⟨_, rfl⟩, ⟨_, rfl⟩, _, rfl, by decide⟩

/-! ## Witnesses: whole-machine rules and frames -/

theorem witness_StepKeepsInvariant : (initWith [.probe, .wait .cmd] [.ok]).Inv ∧ ∃ t, step (initWith [.probe, .wait .cmd] [.ok]) = .next t :=
  ⟨(witness_inv_init _).2.1, _, rfl⟩

/-- A run that presents BEGIN, takes it, and is reset. -/
theorem witness_RunKeepsInvariant : ∃ t, Run State.reset t ∧ t.fsm = .initializing ∧ t.resetLine = true :=
  ⟨_, .pulse (.step (.env (.start _) (.present _ 0x10001002)) rfl), rfl, rfl⟩

theorem witness_InvariantStepNeverStops : (readyWith 16 2 [0x40000501] []).Inv ∧ faultedState.Inv ∧ (uninitWith [0] []).Inv :=
  ⟨witness_inv_ready _ _, witness_inv_faulted, witness_inv_uninit _ _⟩

/-- Each legal change of `fsm`, reset among them. -/
theorem witness_FsmTransitions :
    (uninitWith [0x10001002] []).Inv ∧ (∃ t, step (uninitWith [0x10001002] []) = .next t ∧ t.fsm = .initializing)
    ∧ (readyWith 16 2 [0x10001002] []).Inv ∧ (∃ t, step (readyWith 16 2 [0x10001002] []) = .next t ∧ t.fsm = .initializing)
    ∧ (initWith [.wait .cmd] []).Inv ∧ (∃ t, step (initWith [.wait .cmd] []) = .next t ∧ t.fsm = .ready)
    ∧ (initWith [.write 0xC8] [.fail]).Inv ∧ (∃ t, step (initWith [.write 0xC8] [.fail]) = .next t ∧ t.fsm = .faulted)
    ∧ (busyWith [.write 0x18, .wait .cmd] [.fail]).Inv
    ∧ (∃ t, step (busyWith [.write 0x18, .wait .cmd] [.fail]) = .next t ∧ t.fsm = .faulted)
    ∧ ∃ t, step { faultedState with resetLine := true } = .next t ∧ t.fsm = .uninit :=
  ⟨witness_inv_uninit _ _, ⟨_, rfl, rfl⟩, witness_inv_ready _ _, ⟨_, rfl, rfl⟩, (witness_inv_init _).1, ⟨_, rfl, rfl⟩,
    (witness_inv_init _).2.2, ⟨_, rfl, rfl⟩, witness_inv_writing _, ⟨_, rfl, rfl⟩, ⟨_, rfl, rfl⟩⟩

/-- The last event of the initialization, with the rest of the sequence in the trace. -/
def lastInit : State := { initWith [.wait .cmd] [] with trace := (initSeq true).dropLast.map tracedOk }

theorem witness_StepKeepsHistory : lastInit.Inv ∧ lastInit.resetLine = false ∧ lastInit.HistorySince [] ∧ [] <+: lastInit.trace
    ∧ ∃ t, step lastInit = .next t ∧ t.fsm = .ready := by
  refine ⟨?_, rfl, ⟨fun _ => ⟨[], (initSeq true).dropLast, by decide, by decide⟩, fun h => absurd h (by decide)⟩, List.nil_prefix, _, rfl, rfl⟩
  have ht : ∀ t ∈ lastInit.trace, ∀ b ∈ t.writtenByte, wireLegal b = true := by decide
  exact { (witness_inv_init []).1 with traceLegal := ht }

/-- A quiet run is what a number of steps of an unreset block makes. -/
theorem quietRun_of_runSteps {s : State} (k : Nat) (t u : State) (hq : QuietRun s t)
    (h : ∀ j < k, ∀ v, runSteps j t = .next v → v.resetLine = false) (hk : runSteps k t = .next u) : QuietRun s u := by
  induction k generalizing t with
  | zero => simp only [runSteps, Host.Outcome.next.injEq] at hk; exact hk ▸ hq
  | succ k ih =>
    simp only [runSteps] at hk
    cases hs : step t with
    | next v =>
      rw [hs] at hk
      refine ih v (hq.step (h 0 (by omega) t rfl) hs) (fun j hj w hw => h (j + 1) (by omega) w ?_) hk
      simp only [runSteps, hs]; exact hw
    | fault r => rw [hs] at hk; cases hk
    | refused r => rw [hs] at hk; cases hk

/-- Vector V3.2 to its end: the one run that a witness needs, from reset values to READY. -/
theorem witness_ReadyOnlyThroughInit : ∃ t, (uninitWith [0x10001404] (List.replicate 29 .ok)).Inv
    ∧ (uninitWith [0x10001404] (List.replicate 29 .ok)).fsm = .uninit
    ∧ QuietRun (uninitWith [0x10001404] (List.replicate 29 .ok)) t ∧ t.fsm = .ready := by
  refine ⟨_, witness_inv_uninit _ _, rfl, quietRun_of_runSteps 53 _ _ (.start _) ?_ rfl, rfl⟩
  have h : ∀ j < 53, goesTo (runSteps j (uninitWith [0x10001404] (List.replicate 29 .ok))) (fun v => !v.resetLine) = true := by decide
  intro j hj v hv
  have hg := h j hj
  rw [hv] at hg
  simpa [goesTo] using hg

theorem witness_GeometryWrittenOnlyByBegin :
    ((uninitWith [] []).Inv ∧ (uninitWith [] []).fsm = .uninit)
    ∧ ((readyWith 16 2 [0x10002804] []).Inv ∧ ∃ t, step (readyWith 16 2 [0x10002804] []) = .next t ∧ t.cols = some 40)
    ∧ ((uninitWith [] []).cols = none ∧ ∃ t, exec (.setCursor 5 1) (uninitWith [] []) = .next t)
    ∧ ∃ t, step (initWith [.write 0xC8] [.fail]) = .next t ∧ t.fsm = .faulted :=
  ⟨⟨witness_inv_uninit _ _, rfl⟩, ⟨witness_inv_ready _ _, _, rfl, rfl⟩, ⟨rfl, _, rfl⟩, _, rfl, rfl⟩

theorem witness_InstructionFrames : (Instr.clear.isRequest = true ∧ ∃ t, exec .clear (uninitWith [] []) = .next t ∧ t.refused ≠ (uninitWith [] []).refused)
    ∧ (∃ t, exec .clear { readyWith 16 2 [] [] with refused := true } = .next t)
    ∧ (Instr.cmdClear.isRequest = false ∧ ∃ t, exec .cmdClear (readyWith 16 2 [] []) = .next t) :=
  ⟨⟨rfl, _, rfl, by decide⟩, ⟨_, rfl⟩, rfl, _, rfl⟩

theorem witness_EventFrame : (busyWith [.write 0x18, .wait .cmd] []).fsm ≠ .faulted ∧ (busyWith [.write 0x18, .wait .cmd] []).resetLine = false
    ∧ (busyWith [.write 0x18, .wait .cmd] []).seq ≠ [] := by decide

theorem witness_SendStringTransmitsInOrder :
    (readyWith 16 2 [0x50000048, 0x50000069, 0x60000000] (List.replicate 8 .ok)).ReadyToTake
    ∧ (readyWith 16 2 [0x50000048, 0x50000069, 0x60000000] (List.replicate 8 .ok)).fsm = .ready
    ∧ [0x50000048, 0x50000069, 0x60000000] = (sendString (ascii ['H', 'i'])).filterMap requestWord ++ []
    ∧ List.replicate 8 Answer.ok = List.replicate (4 * (ascii ['H', 'i']).length) .ok ++ [] :=
  ⟨⟨rfl, rfl, rfl, by decide⟩, rfl, by decide, by decide⟩

/-- A text shorter than the line, and one longer. -/
theorem witness_PrintLineFillsTheWidth : 0x20 ∈ (fitLine 3 [0x41]).drop (min 3 [0x41].length)
    ∧ (fitLine 1 [0x41, 0x42]) = [0x41] := by decide

/-- Precisions FMT refuses, and a whole part of more than one digit. -/
theorem witness_FixedPointFormat : (0 ≠ 1 ∧ 0 ≠ 2) ∧ (3 ≠ 1 ∧ 3 ≠ 2) ∧ 1 < (dec (Int.natAbs 123456 / 100)).length ∧ (-5 : Int) < 0 := by decide

end Sys2Proof.Tests
end

section
/-! Sequences of answered events (rules R9, R56): one event answered `ok`, then any number of them with a tail still
pending, then the whole of `seq`. -/

namespace Sys2Proof.Machine

theorem busCount_append (as bs : List Event) : busCount (as ++ bs) = busCount as + busCount bs := by
  simp [busCount]

theorem busCount_cons (e : Event) (es : List Event) : busCount (e :: es) = busCount [e] + busCount es :=
  busCount_append [e] es

/-- `s` where `es` have been performed, none answered `fail`, with `rest` still pending and `more` answers lined up. -/
def State.afterEvents (s : State) (es rest : List Event) (more : List Answer) : State :=
  { s with
    seq := rest, fsm := if rest = [] then s.post else s.fsm, trace := s.trace ++ es.map tracedOk, answers := more,
    draws := s.draws + busCount es }

theorem State.nextAnswer_cons {s : State} {a : Answer} {as : List Answer} (h : s.answers = a :: as) :
    s.nextAnswer = a := by
  simp [State.nextAnswer, h]

/-- Nothing performed of a sequence that is not empty is the state itself. -/
theorem State.afterEvents_nil {s : State} (hne : s.seq ≠ []) : s.afterEvents [] s.seq s.answers = s := by
  simp [State.afterEvents, busCount, hne]

/-- Performing `e`, with events left, and then `es` is performing `e :: es`. -/
theorem State.afterEvents_cons (s : State) (e : Event) (es rest : List Event) {mid : List Event} (hmid : mid ≠ [])
    (as more : List Answer) :
    (s.afterEvents [e] mid as).afterEvents es rest more = s.afterEvents (e :: es) rest more := by
  simp [State.afterEvents, hmid, busCount_cons e es, Nat.add_assoc]

/-- Rule R56: one step performs the head event, where the transport answers it `ok` if it answers at all. -/
theorem step_event_ok {s : State} {e : Event} {rest : List Event} {more : List Answer} (hs : s.seq = e :: rest)
    (hf : s.fsm ≠ .faulted) (hr : s.resetLine = false) (ha : s.answers = List.replicate (busCount [e]) .ok ++ more) :
    step s = .next (s.afterEvents [e] rest more) := by
  rw [step_busy hr hf (by simp [hs])]
  cases e with
  | wait k =>
    have ha' : s.answers = more := ha
    rw [State.performEvent_wait hs hf, ← ha']
    rfl
  | write b =>
    have ha' : s.answers = .ok :: more := ha
    rw [State.performEvent_write_ok hs hf (State.nextAnswer_cons ha'), ha']
    rfl
  | probe =>
    have ha' : s.answers = .ok :: more := ha
    rw [State.performEvent_probe_ok hs hf (State.nextAnswer_cons ha'), ha']
    rfl

/-- Rules R9, R56: as many steps as `es` is long perform `es`, in order, and leave the `rest` of the sequence pending. -/
theorem runSteps_events_ok (es rest : List Event) (more : List Answer) (s : State) (hs : s.seq = es ++ rest)
    (hne : s.seq ≠ []) (hf : s.fsm ≠ .faulted) (hr : s.resetLine = false)
    (ha : s.answers = List.replicate (busCount es) .ok ++ more) :
    runSteps es.length s = .next (s.afterEvents es rest more) := by
  induction es generalizing s with
  | nil =>
    have hrest : s.seq = rest := hs
    have hmore : s.answers = more := ha
    rw [← hrest, ← hmore, State.afterEvents_nil hne]
    rfl
  | cons e es ih =>
    rw [busCount_cons, List.replicate_add, List.append_assoc] at ha
    have hstep := step_event_ok hs hf hr ha
    rw [List.length_cons, runSteps, hstep]
    by_cases hmid : es ++ rest = []
    · obtain ⟨rfl, rfl⟩ := List.append_eq_nil_iff.mp hmid
      rfl
    · have hlive : (s.afterEvents [e] (es ++ rest) (List.replicate (busCount es) .ok ++ more)).fsm ≠ .faulted := by
        simpa only [State.afterEvents, hmid, if_false] using hf
      rw [← State.afterEvents_cons s e es rest hmid]
      exact ih _ rfl hmid hlive hr rfl

/-- Settles O40: performing all of `seq` is `runSteps_events_ok` with no event left over. -/
theorem sequenceRunsToCompletion : Obligations.SequenceRunsToCompletion := by
  intro es s more hs hne hf hr ha
  exact runSteps_events_ok es [] more s (by simpa using hs) (hs ▸ hne) hf hr ha

end Sys2Proof.Machine
end

section
/-! What one step does (rules R21, R56, R80, R81, R220): each event's two outcomes, each request's meaning at a ready port,
and from them the effects of a step, listed once. -/

namespace Sys2Proof.Machine

/-! Events. -/

/-- `s` where the head event `e` was answered `fail` (rules R191, R192). -/
def State.afterFailure (s : State) (e : Event) : State :=
  { s with
    seq := [], fsm := .faulted, faultCause := failCause e, faultByte := failByte e, trace := s.trace ++ [tracedFail e],
    answers := s.answers.tail, draws := s.draws + 1 }

/-- An event that the transport does not answer `fail` leaves the rest of the sequence (rule R56). -/
theorem State.performEvent_done {s : State} {e : Event} {rest : List Event} (hs : s.seq = e :: rest)
    (hf : s.fsm ≠ .faulted) (ha : e.onBus = true → s.nextAnswer = .ok) :
    ∃ more, s.performEvent = s.afterEvents [e] rest more := by
  cases e with
  | wait k => exact ⟨s.answers, State.performEvent_wait hs hf⟩
  | write b => exact ⟨s.answers.tail, State.performEvent_write_ok hs hf (ha rfl)⟩
  | probe => exact ⟨s.answers.tail, State.performEvent_probe_ok hs hf (ha rfl)⟩

/-- A bus event answered `fail` enters FAULTED (rule R191). -/
theorem State.performEvent_failed {s : State} {e : Event} {rest : List Event} (hs : s.seq = e :: rest)
    (hbus : e.onBus = true) (ha : s.nextAnswer = .fail) : s.performEvent = s.afterFailure e := by
  cases e with
  | wait k => cases hbus
  | write b => exact State.performEvent_write_fail hs ha
  | probe => exact State.performEvent_probe_fail hs ha

/-- The two outcomes of an event step, with the answer that decides between them (rules R56, R191). -/
theorem State.performEvent_outcome {s : State} {e : Event} {rest : List Event} (hs : s.seq = e :: rest)
    (hf : s.fsm ≠ .faulted) :
    ((e.onBus = true → s.nextAnswer = .ok) ∧ ∃ more, s.performEvent = s.afterEvents [e] rest more)
    ∨ (e.onBus = true ∧ s.nextAnswer = .fail ∧ s.performEvent = s.afterFailure e) := by
  by_cases hfail : e.onBus = true ∧ s.nextAnswer = .fail
  · obtain ⟨hbus, ha⟩ := hfail
    exact .inr ⟨hbus, ha, State.performEvent_failed hs hbus ha⟩
  · have hok : e.onBus = true → s.nextAnswer = .ok := by
      intro hbus
      cases ha : s.nextAnswer with
      | ok => rfl
      | fail => exact absurd ⟨hbus, ha⟩ hfail
    exact .inl ⟨hok, State.performEvent_done hs hf hok⟩

/-! Requests. -/

/-- Only the rows of the request port decode from a word (rule R70). -/
theorem decodeRequest_isRequest {w : ReqWord} {i : Instr} (h : decodeRequest w = .ok i) : i.isRequest = true := by
  unfold decodeRequest at h
  split_ifs at h <;> cases h <;> rfl

/-- What a Ready-state request does where it is accepted: it loads an expansion, always so where the geometry is legal
(rules R22, R140). -/
structure LoadsExpansion (inReady : State → Result) : Prop where
  loads : ∀ s t, inReady s = .next t → ∃ es, PlainEvents es ∧ t = s.load .ready es
  answers : ∀ s g, s.geometry = some g → ∃ t, inReady s = .next t

theorem loadReady_loadsExpansion {es : List Event} (hp : PlainEvents es) : LoadsExpansion (loadReady es) where
  loads s t h := by
    cases h
    exact ⟨es, hp, rfl⟩
  answers s g _ := ⟨_, rfl⟩

theorem loadSetCursor_loadsExpansion (col row : Byte) : LoadsExpansion (loadSetCursor col row) where
  loads s t h := by
    unfold loadSetCursor at h
    split at h
    · cases h
      exact ⟨_, cmdEvents_plain _, rfl⟩
    · cases h
  answers s g hg := by
    rw [loadSetCursor, hg]
    exact ⟨_, rfl⟩

/-- Every request but BEGIN is admitted by rule R82's row for the Ready-state requests. -/
theorem readyRequest_admission {i : Instr} (hi : i.isRequest = true) (hb : ∀ c r, i ≠ .beginInit c r) :
    ∃ inReady, LoadsExpansion inReady ∧ exec i = acceptRequest refuseRequest inReady := by
  cases i with
  | beginInit c r => exact absurd rfl (hb c r)
  | clear | home => exact ⟨_, loadReady_loadsExpansion (cmdEvents_plain _), rfl⟩
  | setCursor col row => exact ⟨_, loadSetCursor_loadsExpansion col row, rfl⟩
  | putChar b => exact ⟨_, loadReady_loadsExpansion (dataEvents_plain b), rfl⟩
  | stringEnd => exact ⟨_, loadReady_loadsExpansion strWait_plain, rfl⟩
  | _ => cases hi

/-- A request that the port does not accept yet changes nothing (rule R81). -/
theorem exec_held {i : Instr} {s : State} (hi : i.isRequest = true) (hp : s.portReady = false) :
    exec i s = .next s := by
  by_cases hb : ∀ c r, i ≠ .beginInit c r
  · obtain ⟨inReady, -, hx⟩ := readyRequest_admission hi hb
    rw [hx, acceptRequest_held _ _ hp]
  · push Not at hb
    obtain ⟨c, r, rfl⟩ := hb
    exact acceptRequest_held _ _ hp

/-- A Ready-state request is refused in UNINIT (rule R82). -/
theorem exec_uninit_refused {i : Instr} {s : State} (hi : i.isRequest = true) (hb : ∀ c r, i ≠ .beginInit c r)
    (hu : s.fsm = .uninit) (hs : s.seq = []) : exec i s = .next s.refuse := by
  obtain ⟨inReady, -, hx⟩ := readyRequest_admission hi hb
  rw [hx, acceptRequest_uninit _ _ hu hs, refuseRequest]

/-- BEGIN at a ready port is decided by the geometry alone (rule R82). -/
theorem exec_begin_live {c r : Byte} {s : State} (hf : s.fsm = .uninit ∨ s.fsm = .ready) (hs : s.seq = []) :
    exec (.beginInit c r) s = tryBegin c r s := by
  obtain hu | hr := hf
  · exact acceptRequest_uninit _ _ hu hs
  · exact acceptRequest_ready _ _ hr hs

theorem exec_begin_refused {c r : Byte} {s : State} (hf : s.fsm = .uninit ∨ s.fsm = .ready) (hs : s.seq = [])
    (hg : geometryLegal c r = false) : exec (.beginInit c r) s = .next s.refuse := by
  rw [exec_begin_live hf hs, tryBegin, hg]
  rfl

theorem exec_begin_accepted {c r : Byte} {s : State} (hf : s.fsm = .uninit ∨ s.fsm = .ready) (hs : s.seq = [])
    (hg : geometryLegal c r = true) : exec (.beginInit c r) s = .next (beginAccepted c r s) := by
  rw [exec_begin_live hf hs, tryBegin, hg]
  rfl

/-- Everything a request can do at a ready port, where it answers with a next state (rules R80, R82, R120, R140). -/
theorem exec_readyPort_next {i : Instr} {s t : State} (hi : i.isRequest = true) (hp : s.portReady = true)
    (h : exec i s = .next t) :
    t = s.refuse
    ∨ (∃ c r, i = .beginInit c r ∧ (s.fsm = .uninit ∨ s.fsm = .ready) ∧ geometryLegal c r = true
        ∧ t = beginAccepted c r s)
    ∨ (∃ es, PlainEvents es ∧ s.fsm = .ready ∧ t = s.load .ready es) := by
  obtain ⟨hs, -⟩ := s.portReady_iff.mp hp
  by_cases hb : ∀ c r, i ≠ .beginInit c r
  · obtain ⟨inReady, hload, hx⟩ := readyRequest_admission hi hb
    obtain ⟨hheld, -⟩ | ⟨-, -, h⟩ | ⟨-, hf, h⟩ := acceptRequest_next (hx ▸ h)
    · exact absurd hp (by simp [hheld])
    · cases h
      exact .inl rfl
    · obtain ⟨es, hes, rfl⟩ := hload.loads s t h
      exact .inr (.inr ⟨es, hes, hf, rfl⟩)
  · push Not at hb
    obtain ⟨c, r, rfl⟩ := hb
    have hf : s.fsm = .uninit ∨ s.fsm = .ready := by
      obtain ⟨hheld, -⟩ | ⟨-, hf, -⟩ | ⟨-, hf, -⟩ := acceptRequest_next h
      · exact absurd hp (by simp [hheld])
      · exact .inl hf
      · exact .inr hf
    cases hg : geometryLegal c r with
    | true =>
      rw [exec_begin_accepted hf hs hg] at h
      cases h
      exact .inr (.inl ⟨c, r, rfl, hf, hg, rfl⟩)
    | false =>
      rw [exec_begin_refused hf hs hg] at h
      cases h
      exact .inl rfl

/-- A request at a ready port has a next state where the block is UNINIT, or READY with a legal geometry: neither of the
model's faults is met (log 15, log 16). -/
theorem exec_readyPort_answers {i : Instr} {s : State} (hi : i.isRequest = true) (hs : s.seq = [])
    (hf : s.fsm = .uninit ∨ s.fsm = .ready) (hg : s.fsm = .ready → ∃ g, s.geometry = some g) :
    ∃ t, exec i s = .next t := by
  by_cases hb : ∀ c r, i ≠ .beginInit c r
  · obtain hu | hr := hf
    · exact ⟨_, exec_uninit_refused hi hb hu hs⟩
    · obtain ⟨inReady, hload, hx⟩ := readyRequest_admission hi hb
      obtain ⟨g, hg⟩ := hg hr
      rw [hx, acceptRequest_ready _ _ hr hs]
      exact hload.answers s g hg
  · push Not at hb
    obtain ⟨c, r, rfl⟩ := hb
    cases hl : geometryLegal c r with
    | true => exact ⟨_, exec_begin_accepted hf hs hl⟩
    | false => exact ⟨_, exec_begin_refused hf hs hl⟩

/-- SET_CURSOR loads nothing where the geometry holds no value (rules R22, R82). -/
theorem exec_setCursor_noGeometry {col row : Byte} {s t : State} (hg : s.geometry = none)
    (h : exec (.setCursor col row) s = .next t) : t = s ∨ t = s.refuse := by
  obtain ⟨-, rfl⟩ | ⟨-, -, h⟩ | ⟨-, -, h⟩ := acceptRequest_next h
  · exact .inl rfl
  · cases h
    exact .inr rfl
  · rw [loadSetCursor, hg] at h
    cases h

/-! The step. -/

/-- The effects of a step on a state whose command latch is empty (rules R21, R56, R80 to R82, R191, R220). -/
inductive StepEffect (s : State) : State → Prop
  /-- The reset input is taken. -/
  | reset (hr : s.resetLine = true) : StepEffect s s.takeReset
  /-- FAULTED, or idle with nothing presented. -/
  | hold (hr : s.resetLine = false) (h : s.fsm = .faulted ∨ s.requests = []) : StepEffect s s
  /-- The head event is done and not answered `fail`. -/
  | done {e : Event} {rest : List Event} (more : List Answer) (hr : s.resetLine = false) (hf : s.fsm ≠ .faulted)
      (hs : s.seq = e :: rest) (ha : e.onBus = true → s.nextAnswer = .ok) : StepEffect s (s.afterEvents [e] rest more)
  /-- The head event is answered `fail`. -/
  | failed {e : Event} {rest : List Event} (hr : s.resetLine = false) (hf : s.fsm ≠ .faulted) (hs : s.seq = e :: rest)
      (hbus : e.onBus = true) (ha : s.nextAnswer = .fail) : StepEffect s (s.afterFailure e)
  /-- A word is consumed and refused. -/
  | refused {w : ReqWord} {ws : List ReqWord} (hr : s.resetLine = false) (hs : s.seq = []) (hq : s.requests = w :: ws) :
      StepEffect s { s with requests := ws, refused := true }
  /-- A BEGIN with a legal geometry is accepted. -/
  | begun {w : ReqWord} {ws : List ReqWord} {c r : Byte} (hr : s.resetLine = false) (hs : s.seq = [])
      (hf : s.fsm = .uninit ∨ s.fsm = .ready) (hq : s.requests = w :: ws)
      (hw : decodeRequest w = .ok (.beginInit c r)) (hg : geometryLegal c r = true) :
      StepEffect s (beginAccepted c r { s with requests := ws })
  /-- A Ready-state request is accepted. -/
  | loaded {w : ReqWord} {ws : List ReqWord} {es : List Event} (hr : s.resetLine = false) (hs : s.seq = [])
      (hf : s.fsm = .ready) (hq : s.requests = w :: ws) (hp : PlainEvents es) :
      StepEffect s (({ s with requests := ws } : State).load .ready es)

/-- A decoded request taken at a ready port. -/
theorem stepEffect_of_exec {s t : State} {w : ReqWord} {ws : List ReqWord} {i : Instr} (hr : s.resetLine = false)
    (hf : s.fsm ≠ .faulted) (hs : s.seq = []) (hq : s.requests = w :: ws) (hw : decodeRequest w = .ok i)
    (h : exec i { s with requests := ws } = .next t) : StepEffect s t := by
  have hp : State.portReady { s with requests := ws } = true := (State.portReady_iff _).mpr ⟨hs, hf⟩
  obtain rfl | ⟨c, r, rfl, hlive, hg, rfl⟩ | ⟨es, hes, hready, rfl⟩ :=
    exec_readyPort_next (decodeRequest_isRequest hw) hp h
  · exact .refused hr hs hq
  · exact .begun hr hs hlive hq hw hg
  · exact .loaded hr hs hready hq hes

/-- Everything a step does is one of the effects. -/
theorem step_effect {s t : State} (hc : s.cmdIn = none) (h : step s = .next t) : StepEffect s t := by
  obtain ⟨hr, rfl⟩ | ⟨hr, rfl, hidle⟩ | ⟨hr, hf, hne, rfl⟩ |
    ⟨hr, hf, hs, w, ws, hq, ⟨e, -, rfl⟩ | ⟨i, hw, hx⟩⟩ := step_next hc h
  · exact .reset hr
  · exact .hold hr hidle
  · obtain ⟨e, rest, hs⟩ := List.exists_cons_of_ne_nil hne
    obtain ⟨ha, more, heq⟩ | ⟨hbus, ha, heq⟩ := State.performEvent_outcome hs hf
    · exact heq ▸ .done more hr hf hs ha
    · exact heq ▸ .failed hr hf hs hbus ha
  · exact .refused hr hs hq
  · exact stepEffect_of_exec hr hf hs hq hw hx

end Sys2Proof.Machine
end

section
/-! The invariant (rules R21, R22, R28, R30, R75, R82, R191): what it says of a busy block, and that each effect of a step
keeps it. -/

namespace Sys2Proof.Machine

/-- Settles O48: each clause of the invariant on rule R34's values. -/
theorem invariantAtReset : Obligations.InvariantAtReset := by
  unfold Obligations.InvariantAtReset
  constructor <;> simp [State.reset]

/-- A block with events pending is INITIALIZING or READY. -/
theorem State.Inv.fsm_of_busy {s : State} (h : s.Inv) (hs : s.seq ≠ []) : s.fsm = .initializing ∨ s.fsm = .ready := by
  cases hf : s.fsm with
  | uninit => exact absurd (h.uninitIdle hf).1 hs
  | initializing => exact .inl rfl
  | ready => exact .inr rfl
  | faulted => exact absurd (h.faultedIdle hf) hs

/-- Every sequence that ends without a failure ends in READY (rules R28, R127, R140). -/
theorem State.Inv.post_of_busy {s : State} (h : s.Inv) (hs : s.seq ≠ []) : s.post = .ready := by
  obtain hf | hf := h.fsm_of_busy hs
  · exact (h.initializingBusy hf).2
  · exact h.readyPost hf

/-- A block that is ready to take a request is UNINIT or READY (rule R82). -/
theorem State.Inv.fsm_of_idle {s : State} (h : s.Inv) (hs : s.seq = []) (hf : s.fsm ≠ .faulted) :
    s.fsm = .uninit ∨ s.fsm = .ready := by
  cases hfsm : s.fsm with
  | uninit => exact .inl rfl
  | initializing => exact absurd hs (h.initializingBusy hfsm).1
  | ready => exact .inr rfl
  | faulted => exact absurd hfsm hf

/-- No cause and no byte is recorded outside FAULTED (rule R30). -/
theorem State.Inv.noRecord {s : State} (h : s.Inv) (hf : s.fsm ≠ .faulted) :
    s.faultCause = .none ∧ s.faultByte = 0 := by
  have hc : s.faultCause = .none := by
    by_contra hc
    exact hf (h.causeRecorded.mp hc)
  have hbyte := h.faultByteLegal
  exact ⟨hc, by simpa [hc] using hbyte⟩

/-- The invariant does not look at what is presented nor at the mark. -/
theorem State.Inv.frontEnd {s : State} (h : s.Inv) (ws : List ReqWord) (mark : Bool) :
    State.Inv { s with requests := ws, refused := mark } :=
  { h with }

theorem tracedOk_writtenByte {e : Event} {b : Byte} (h : (tracedOk e).writtenByte = some b) : e = .write b := by
  cases e <;> simp_all [tracedOk, Traced.writtenByte]

theorem tracedFail_writtenByte {e : Event} {b : Byte} (h : (tracedFail e).writtenByte = some b) : e = .write b := by
  cases e <;> simp_all [tracedFail, Traced.writtenByte]

/-- A trace of legal bytes stays one where its new entry wrote a byte that was pending (rule R75). -/
theorem State.Inv.traceLegal_snoc {s : State} (h : s.Inv) {entry : Traced}
    (hentry : ∀ b, entry.writtenByte = some b → .write b ∈ s.seq) :
    ∀ t ∈ s.trace ++ [entry], ∀ b, t.writtenByte = some b → wireLegal b = true := by
  intro t ht b hb
  rw [List.mem_append, List.mem_singleton] at ht
  obtain ht | rfl := ht
  · exact h.traceLegal t ht b hb
  · exact h.seqLegal b (hentry b hb)

/-- The reset input (rules R34, R220). -/
theorem State.Inv.takeReset {s : State} (h : s.Inv) : s.takeReset.Inv := by
  obtain ⟨n, tr, heq, htr⟩ := s.takeReset_cases
  have hlegal : ∀ t ∈ tr, ∀ b, t.writtenByte = some b → wireLegal b = true := by
    obtain rfl | ⟨b, rest, hs, rfl⟩ := htr
    · exact h.traceLegal
    · refine h.traceLegal_snoc fun b' hb => ?_
      obtain rfl : b = b' := Option.some.inj hb
      simp [hs]
  rw [heq]
  constructor
  case traceLegal => exact hlegal
  all_goals simp

/-- The `fsm` value after events: kept while events are left, `post` at the end of the sequence (rule R28). -/
theorem State.afterEvents_fsm_end (s : State) (es : List Event) (more : List Answer) :
    (s.afterEvents es [] more).fsm = s.post := rfl

theorem State.afterEvents_fsm_busy (s : State) (es : List Event) {rest : List Event} (hrest : rest ≠ [])
    (more : List Answer) : (s.afterEvents es rest more).fsm = s.fsm := by
  simp [State.afterEvents, hrest]

/-- INITIALIZING or READY after an event that did not fail, and INITIALIZING only with events left (rules R127, R130). -/
theorem State.Inv.afterEvents_fsm {s : State} (h : s.Inv) {e : Event} {rest : List Event} (hs : s.seq = e :: rest)
    (more : List Answer) :
    (s.fsm = .initializing ∧ rest ≠ [] ∧ (s.afterEvents [e] rest more).fsm = .initializing)
    ∨ (s.afterEvents [e] rest more).fsm = .ready := by
  have hne : s.seq ≠ [] := by simp [hs]
  by_cases hrest : rest = []
  · subst hrest
    exact .inr (h.post_of_busy hne)
  · rw [State.afterEvents_fsm_busy s [e] hrest more]
    obtain hf | hf := h.fsm_of_busy hne
    · exact .inl ⟨hf, hrest, hf⟩
    · exact .inr hf

/-- An event done without a failure (rules R28, R56). -/
theorem State.Inv.afterEvents {s : State} (h : s.Inv) {e : Event} {rest : List Event} (hs : s.seq = e :: rest)
    (more : List Answer) : (s.afterEvents [e] rest more).Inv := by
  have hne : s.seq ≠ [] := by simp [hs]
  have hsub : ∀ e' ∈ rest, e' ∈ s.seq := fun e' he => hs ▸ List.mem_cons_of_mem e he
  have hlive := h.fsm_of_busy hne
  have hfsm := h.afterEvents_fsm hs more
  have hcause : s.faultCause = .none := (h.noRecord (by rcases hlive with hf | hf <;> simp [hf])).1
  exact {
    latchEmpty := h.latchEmpty
    uninitIdle := fun hu => by simp [hu] at hfsm
    geometryHeld := fun _ => h.geometryHeld (by rcases hlive with hf | hf <;> simp [hf])
    initializingBusy := fun hi => by
      rw [hi] at hfsm
      obtain ⟨-, hrest, -⟩ | hready := hfsm
      · exact ⟨hrest, h.post_of_busy hne⟩
      · cases hready
    readyPost := fun _ => h.post_of_busy hne
    faultedIdle := fun hf => by simp [hf] at hfsm
    causeRecorded := by
      have hf : (s.afterEvents [e] rest more).fsm ≠ .faulted := fun hf => by simp [hf] at hfsm
      exact iff_of_false (fun hc => hc hcause) hf
    faultByteLegal := h.faultByteLegal
    seqLegal := fun b hb => h.seqLegal b (hsub _ hb)
    probeInit := fun (hp : .probe ∈ rest) => by
      rw [State.afterEvents_fsm_busy s [e] (List.ne_nil_of_mem hp) more]
      exact h.probeInit (hsub _ hp)
    traceLegal := h.traceLegal_snoc fun b hb => by simp [hs, tracedOk_writtenByte hb]
    seqShort := by
      have hshort := h.seqShort
      rw [hs, List.length_cons] at hshort
      exact Nat.le_of_succ_le hshort }

/-- A bus event's record is a legal byte of a failed write, or 0 (rules R30, R192). -/
theorem State.Inv.failByte_legal {s : State} (h : s.Inv) {e : Event} {rest : List Event} (hs : s.seq = e :: rest) :
    if failCause e = .writeFail then wireLegal (failByte e) = true else failByte e = 0 := by
  cases e with
  | write b => exact h.seqLegal b (by simp [hs])
  | probe | wait _ => rfl

theorem failCause_ne_none {e : Event} (hbus : e.onBus = true) : failCause e ≠ .none := by
  cases e <;> simp_all [failCause, Event.onBus]

/-- Entry to FAULTED (rule R191). -/
theorem State.Inv.afterFailure {s : State} (h : s.Inv) {e : Event} {rest : List Event} (hs : s.seq = e :: rest)
    (hbus : e.onBus = true) : (s.afterFailure e).Inv where
  latchEmpty := h.latchEmpty
  uninitIdle := nofun
  geometryHeld _ := h.geometryHeld (by rcases h.fsm_of_busy (by simp [hs]) with hf | hf <;> simp [hf])
  initializingBusy := nofun
  readyPost := nofun
  faultedIdle _ := rfl
  causeRecorded := iff_of_true (failCause_ne_none hbus) rfl
  faultByteLegal := h.failByte_legal hs
  seqLegal := nofun
  probeInit := nofun
  traceLegal := h.traceLegal_snoc fun b hb => by simp [hs, tracedFail_writtenByte hb]
  seqShort := Nat.zero_le _

/-- BEGIN accepted (rule R120). -/
theorem State.Inv.beginAccepted {s : State} (h : s.Inv) {c r : Byte} (hf : s.fsm = .uninit ∨ s.fsm = .ready)
    (hg : geometryLegal c r = true) : (beginAccepted c r s).Inv where
  latchEmpty := h.latchEmpty
  uninitIdle := nofun
  geometryHeld _ := ⟨c, r, rfl, rfl, hg⟩
  initializingBusy _ := ⟨initSeq_ne_nil _, rfl⟩
  readyPost := nofun
  faultedIdle := nofun
  causeRecorded := by
    have hlive : s.fsm ≠ .faulted := by rcases hf with hf | hf <;> simp [hf]
    exact iff_of_false (fun hc => hc (h.noRecord hlive).1) nofun
  faultByteLegal := h.faultByteLegal
  seqLegal b hb := initSeq_legal _ b hb
  probeInit _ := rfl
  traceLegal := h.traceLegal
  seqShort := by
    have hlen := initSeq_length s.probeAtBegin
    rw [beginAccepted_eq, hlen]
    split <;> omega

/-- A Ready-state request accepted (rule R140). -/
theorem State.Inv.load {s : State} (h : s.Inv) {es : List Event} (hf : s.fsm = .ready) (hp : PlainEvents es) :
    (s.load .ready es).Inv :=
  { h with
    uninitIdle := fun hu => by simp [hf] at hu
    initializingBusy := fun hi => by simp [hf] at hi
    readyPost := fun _ => rfl
    faultedIdle := fun hft => by simp [hf] at hft
    seqLegal := hp.legal
    probeInit := fun hprobe => absurd hprobe hp.noProbe
    seqShort := hp.short.trans (by omega) }

/-- Settles O49: each effect of a step keeps the invariant. -/
theorem stepKeepsInvariant : Obligations.StepKeepsInvariant := by
  intro s t h hstep
  cases step_effect h.latchEmpty hstep with
  | reset _ => exact h.takeReset
  | hold _ _ => exact h
  | done more _ _ hs _ => exact h.afterEvents hs more
  | failed _ _ hs hbus _ => exact h.afterFailure hs hbus
  | refused _ _ _ => exact h.frontEnd _ true
  | begun _ _ hf _ _ hg => exact (h.frontEnd _ s.refused).beginAccepted hf hg
  | loaded _ _ hf _ hp => exact (h.frontEnd _ s.refused).load hf hp

/-- The calculator reads a geometry in every READY block (rule R22). -/
theorem State.Inv.geometry_of_ready {s : State} (h : s.Inv) (hf : s.fsm = .ready) : ∃ g, s.geometry = some g := by
  obtain ⟨c, r, hc, hr, hg⟩ := h.geometryHeld (by simp [hf])
  exact ⟨(c, r), (s.geometry_eq_some c r).mpr ⟨hc, hr, hg⟩⟩

/-- Settles O51: only a taken request could stop the step, and `exec_readyPort_answers` says that none does. -/
theorem invariantStepNeverStops : Obligations.InvariantStepNeverStops := by
  intro s h
  by_cases hreset : s.resetLine = true
  · exact ⟨_, step_reset hreset⟩
  have hr : s.resetLine = false := by simpa using hreset
  by_cases hf : s.fsm = .faulted
  · exact ⟨_, step_faulted hr hf⟩
  by_cases hs : s.seq = []
  · rcases hq : s.requests with _ | ⟨w, ws⟩
    · exact ⟨_, step_take_hold hr hf hs (by simp [takeNext, h.latchEmpty, hq])⟩
    have htake := takeNext_request h.latchEmpty hq
    rcases hw : decodeRequest w with err | i
    · exact ⟨_, step_take_refuse hr hf hs (by rw [htake, hw]; rfl)⟩
    · rw [step_take_run hr hf hs (by rw [htake, hw]; rfl)]
      have hidle := h.frontEnd ws s.refused
      exact exec_readyPort_answers (decodeRequest_isRequest hw) hs (h.fsm_of_idle hs hf) hidle.geometry_of_ready
  · exact ⟨_, step_busy hr hf hs⟩

end Sys2Proof.Machine
end

section
/-! What a step does to each part of the state: `fsm` and `post` (rules R21, R28), the request port and the mark (rules
R29, R80, R81), the fault record (rules R30, R192), the geometry (rule R22), and STATUS (rule R31). -/

namespace Sys2Proof.Machine

/-! `fsm` and `post`. -/

/-- Rule R21's table: reset; `fsm` kept; or one of its three kinds of change, each with its cause. -/
theorem StepEffect.fsm_cases {s t : State} (h : s.Inv) (heff : StepEffect s t) :
    (s.resetLine = true ∧ t.fsm = .uninit)
    ∨ (s.resetLine = false ∧ t.fsm = s.fsm)
    ∨ (s.resetLine = false ∧ (s.fsm = .uninit ∨ s.fsm = .ready) ∧ t.fsm = .initializing
        ∧ ∃ w ws c r, s.requests = w :: ws ∧ decodeRequest w = .ok (.beginInit c r))
    ∨ (s.resetLine = false ∧ s.fsm = .initializing ∧ t.fsm = .ready
        ∧ ∃ e, s.seq = [e] ∧ (e.onBus = true → s.nextAnswer = .ok))
    ∨ (s.resetLine = false ∧ (s.fsm = .initializing ∨ s.fsm = .ready) ∧ t.fsm = .faulted
        ∧ ∃ e rest, s.seq = e :: rest ∧ e.onBus = true ∧ s.nextAnswer = .fail) := by
  cases heff with
  | reset hr => exact .inl ⟨hr, rfl⟩
  | hold hr _ | refused hr _ _ | loaded hr _ _ _ _ => exact .inr (.inl ⟨hr, rfl⟩)
  | begun hr _ hf hq hw _ => exact .inr (.inr (.inl ⟨hr, hf, rfl, _, _, _, _, hq, hw⟩))
  | @failed e rest hr _ hs hbus ha =>
    exact .inr (.inr (.inr (.inr ⟨hr, h.fsm_of_busy (by simp [hs]), rfl, e, rest, hs, hbus, ha⟩)))
  | @done e rest more hr _ hs ha =>
    by_cases hrest : rest = []
    · subst hrest
      have hready : (s.afterEvents [e] [] more).fsm = .ready := h.post_of_busy (by simp [hs])
      obtain hf | hf := h.fsm_of_busy (by simp [hs])
      · exact .inr (.inr (.inr (.inl ⟨hr, hf, hready, e, hs, ha⟩)))
      · exact .inr (.inl ⟨hr, hready.trans hf.symm⟩)
    · exact .inr (.inl ⟨hr, s.afterEvents_fsm_busy [e] hrest more⟩)

/-- Settles O52: every case of `StepEffect.fsm_cases` is in rule R21's table, with the cause that the table names. -/
theorem fsmTransitions : Obligations.FsmTransitions := by
  refine ⟨⟨rfl, rfl, rfl, rfl⟩, fun s t h hstep => ?_⟩
  obtain ⟨hr, ht⟩ | ⟨hr, ht⟩ | ⟨hr, hs, ht, cause⟩ | ⟨hr, hs, ht, cause⟩ | ⟨hr, hs, ht, cause⟩ :=
    (step_effect h.latchEmpty hstep).fsm_cases h
  · simp [hr, ht]
  · simp +contextual [hr, ht]
  · have move : FsmMove s.fsm .initializing := by
      obtain hs | hs := hs <;> rw [hs]
      · exact .beginUninit
      · exact .beginReady
    exact ⟨by simp [hr], fun _ => .inr (ht ▸ move), fun _ _ _ => cause, by simp [ht], by simp [ht]⟩
  · simp [hr, hs, ht, FsmMove.complete, cause]
  · have move : FsmMove s.fsm .faulted := by
      obtain hs | hs := hs <;> rw [hs]
      · exact .faultInit
      · exact .faultReady
    exact ⟨by simp [hr], fun _ => .inr (ht ▸ move), by simp [ht], by simp [ht], fun _ _ => cause⟩

/-- What an event step writes to `fsm`, where it does not fault (rules R28, R56). -/
theorem State.performEvent_fsm {s : State} (hf : s.fsm ≠ .faulted) (hs : s.seq ≠ [])
    (hlive : s.performEvent.fsm ≠ .faulted) :
    s.performEvent.fsm = if s.performEvent.seq = [] then s.post else s.fsm := by
  obtain ⟨e, rest, hs⟩ := List.exists_cons_of_ne_nil hs
  obtain ⟨-, more, heq⟩ | ⟨-, -, heq⟩ := State.performEvent_outcome hs hf
  · rw [heq]
    rfl
  · exact absurd (by rw [heq]; rfl) hlive

/-- Settles O45: the first two clauses go through what a request can do, the third through the event step. -/
theorem postRule : Obligations.PostRule := by
  refine ⟨?_, ?_, ?_⟩
  · intro s t c r hx ht hs
    obtain rfl | ⟨-, -, -, rfl⟩ | ⟨-, -, -, -, -, -, rfl⟩ | ⟨-, -, -, -, -, rfl⟩ | ⟨-, -, hreq, -, -⟩ := exec_next hx
    · exact absurd ht hs
    · exact absurd ht hs
    · rfl
    · rfl
    · cases hreq
  · intro i s t hi hb hx
    obtain rfl | ⟨-, -, -, rfl⟩ | ⟨c, r, rfl, -⟩ | ⟨es, -, -, -, hf, rfl⟩ | ⟨-, -, hreq, -, -⟩ := exec_next hx
    · exact ⟨rfl, fun hne => absurd rfl hne⟩
    · exact ⟨rfl, fun hne => absurd rfl hne⟩
    · exact absurd rfl (hb c r)
    · exact ⟨rfl, fun _ => hf.symm⟩
    · rw [hi] at hreq
      cases hreq
  · intro s t hf hr hs hstep hlive
    rw [step_busy hr hf hs] at hstep
    cases hstep
    exact State.performEvent_fsm hf hs hlive

/-! The request port and the mark. -/

/-- An event takes no request (rule R81). -/
theorem State.performEvent_requests {s : State} (hf : s.fsm ≠ .faulted) (hs : s.seq ≠ []) :
    s.performEvent.requests = s.requests := by
  obtain ⟨e, rest, hs⟩ := List.exists_cons_of_ne_nil hs
  obtain ⟨-, more, heq⟩ | ⟨-, -, heq⟩ := State.performEvent_outcome hs hf <;> rw [heq] <;> rfl

/-- A presented word leaves a ready port in the step, whatever it is (rule R81). -/
theorem StepEffect.requests_taken {s t : State} {w : ReqWord} {ws : List ReqWord} (heff : StepEffect s t)
    (hr : s.resetLine = false) (hp : s.portReady = true) (hq : s.requests = w :: ws) : t.requests = ws := by
  obtain ⟨hidle, hf⟩ := s.portReady_iff.mp hp
  cases heff with
  | reset hreset => simp [hr] at hreset
  | hold _ h => simp [hf, hq] at h
  | done _ _ _ hs _ | failed _ _ hs _ _ => simp [hidle] at hs
  | refused _ _ hq' | begun _ _ _ hq' _ _ | loaded _ _ _ hq' _ =>
    rw [hq] at hq'
    exact (List.cons.inj hq').2.symm

/-- Settles O9: a held request by `exec_held` and the event step's frame, a taken one by `StepEffect.requests_taken`. -/
theorem portHoldsWhileNotReady : Obligations.PortHoldsWhileNotReady := by
  refine ⟨fun s => ⟨s.portReady_iff, s.busy_iff⟩, fun s i hi hp => exec_held hi hp, ?_, ?_,
    fun s hf hr => step_faulted hr hf⟩
  · intro s hp hr
    by_cases hf : s.fsm = .faulted
    · exact ⟨s, step_faulted hr hf, rfl⟩
    · have hs : s.seq ≠ [] := fun hs => by simp [s.portReady_iff.mpr ⟨hs, hf⟩] at hp
      exact ⟨_, step_busy hr hf hs, State.performEvent_requests hf hs⟩
  · intro s w ws h hr hp hq
    obtain ⟨t, hstep⟩ := invariantStepNeverStops s h
    exact ⟨t, hstep, (step_effect h.latchEmpty hstep).requests_taken hr hp hq⟩

/-- A legal word at a ready port runs on the state without it (rules R72, R81). -/
theorem step_readyToTake_ok {s : State} {w : ReqWord} {ws : List ReqWord} {i : Instr} (hready : s.ReadyToTake)
    (hq : s.requests = w :: ws) (hw : decodeRequest w = .ok i) : step s = exec i { s with requests := ws } := by
  obtain ⟨hr, hc, hs, hf⟩ := hready
  exact step_take_run hr hf hs (by rw [takeNext_request hc hq, hw]; rfl)

/-- An illegal word at a ready port is consumed and refused (rule R80). -/
theorem step_readyToTake_error {s : State} {w : ReqWord} {ws : List ReqWord} {e : DecodeError}
    (hready : s.ReadyToTake) (hq : s.requests = w :: ws) (hw : decodeRequest w = .error e) :
    step s = .next { s with requests := ws, refused := true } := by
  obtain ⟨hr, hc, hs, hf⟩ := hready
  exact step_take_refuse hr hf hs (by rw [takeNext_request hc hq, hw]; rfl)

/-- What an idle block takes is taken from the latch or the port, and nothing else changes. -/
theorem takeNext_cases (s : State) :
    takeNext s = .hold ∨ ∃ latch ws, takeNext s = .refuse { s with cmdIn := latch, requests := ws }
      ∨ ∃ i, takeNext s = .run i { s with cmdIn := latch, requests := ws } := by
  have taken (d : Except DecodeError Instr) (u : State) : decoded d u = .refuse u ∨ ∃ i, decoded d u = .run i u := by
    cases d with
    | error e => exact .inl rfl
    | ok i => exact .inr ⟨i, rfl⟩
  unfold takeNext
  split
  · exact .inr ⟨none, s.requests, taken _ _⟩
  · split
    · exact .inr ⟨s.cmdIn, _, taken _ _⟩
    · exact .inl rfl

/-- Everything a step can do, whatever the command latch holds (log 8). -/
theorem step_next_anyLatch {s t : State} (h : step s = .next t) :
    (s.resetLine = true ∧ t = s.takeReset)
    ∨ t = s
    ∨ (s.fsm ≠ .faulted ∧ s.seq ≠ [] ∧ t = s.performEvent)
    ∨ ∃ latch ws, t = { s with cmdIn := latch, requests := ws, refused := true }
        ∨ ∃ i, exec i { s with cmdIn := latch, requests := ws } = .next t := by
  by_cases hreset : s.resetLine = true
  · rw [step_reset hreset] at h
    cases h
    exact .inl ⟨hreset, rfl⟩
  have hr : s.resetLine = false := by simpa using hreset
  by_cases hf : s.fsm = .faulted
  · rw [step_faulted hr hf] at h
    cases h
    exact .inr (.inl rfl)
  by_cases hs : s.seq = []
  · obtain ha | ⟨latch, ws, ha | ⟨i, ha⟩⟩ := takeNext_cases s
    · rw [step_take_hold hr hf hs ha] at h
      cases h
      exact .inr (.inl rfl)
    · rw [step_take_refuse hr hf hs ha] at h
      cases h
      exact .inr (.inr (.inr ⟨latch, ws, .inl rfl⟩))
    · rw [step_take_run hr hf hs ha] at h
      exact .inr (.inr (.inr ⟨latch, ws, .inr ⟨i, h⟩⟩))
  · rw [step_busy hr hf hs] at h
    cases h
    exact .inr (.inr (.inl ⟨hf, hs, rfl⟩))

/-- No instruction clears the mark (rule R32). -/
theorem exec_keeps_mark {i : Instr} {s t : State} (h : exec i s = .next t) (hm : s.refused = true) :
    t.refused = true := by
  obtain rfl | ⟨-, -, -, rfl⟩ | ⟨-, -, -, -, -, -, rfl⟩ | ⟨-, -, -, -, -, rfl⟩ | ⟨-, -, -, -, rfl⟩ := exec_next h
  · exact hm
  · rfl
  · exact hm
  · exact hm
  · exact hm

/-- An event keeps the mark (rule R32). -/
theorem State.performEvent_refused {s : State} (hf : s.fsm ≠ .faulted) (hs : s.seq ≠ []) :
    s.performEvent.refused = s.refused := by
  obtain ⟨e, rest, hs⟩ := List.exists_cons_of_ne_nil hs
  obtain ⟨-, more, heq⟩ | ⟨-, -, heq⟩ := State.performEvent_outcome hs hf <;> rw [heq] <;> rfl

/-- The reset input keeps the mark (rule R222; log 13). -/
theorem State.takeReset_refused (s : State) : s.takeReset.refused = s.refused := by
  obtain ⟨n, tr, heq, -⟩ := s.takeReset_cases
  rw [heq]

/-- No step clears the mark, reset included (rule R32). -/
theorem step_keeps_mark {s t : State} (h : step s = .next t) (hm : s.refused = true) : t.refused = true := by
  obtain ⟨-, rfl⟩ | rfl | ⟨hf, hs, rfl⟩ | ⟨latch, ws, rfl | ⟨i, hx⟩⟩ := step_next_anyLatch h
  · exact s.takeReset_refused.trans hm
  · exact hm
  · exact (State.performEvent_refused hf hs).trans hm
  · rfl
  · exact exec_keeps_mark hx hm

/-- Settles O10: each of the three refusals in turn, then `step_keeps_mark`. -/
theorem refusalOnlySetsTheMark : Obligations.RefusalOnlySetsTheMark := by
  refine ⟨fun s w ws hready hq hrefusal => ?_, fun s t => step_keeps_mark⟩
  have ⟨_, _, hs, _⟩ := hready
  obtain ⟨e, hw⟩ | ⟨i, hw, hu, hb⟩ | ⟨c, r, hw, hf, hillegal⟩ := hrefusal
  · exact step_readyToTake_error hready hq hw
  · rw [step_readyToTake_ok hready hq hw]
    exact exec_uninit_refused (decodeRequest_isRequest hw) hb hu hs
  · have hg : geometryLegal c r = false := by
      rw [← geometryLegal_iff] at hillegal
      simpa using hillegal
    rw [step_readyToTake_ok hready hq hw]
    exact exec_begin_refused hf hs hg

/-- Settles O43: rule R34's values by evaluation, the mark by `State.takeReset_refused`. -/
theorem resetState : Obligations.ResetState := by
  refine ⟨?_, ?_, State.takeReset_refused⟩
  · exact ⟨rfl, rfl, rfl, rfl, rfl, rfl, rfl, rfl, rfl, rfl⟩
  · decide

/-! The fault record. -/

/-- A failed bus event is a write, recorded with its byte, or a probe, recorded with 0 (rule R192). -/
theorem failRecord_cases {e : Event} (hbus : e.onBus = true) :
    (∃ b, e = .write b ∧ failCause e = .writeFail ∧ failByte e = b)
    ∨ (e = .probe ∧ failCause e = .probeFail ∧ failByte e = 0) := by
  cases e with
  | write b => exact .inl ⟨b, rfl, rfl, rfl⟩
  | probe => exact .inr ⟨rfl, rfl, rfl⟩
  | wait k => cases hbus

/-- The record is kept, or written by the failed head event on entry to FAULTED (rules R30, R191). -/
theorem StepEffect.record_cases {s t : State} (heff : StepEffect s t) (hr : s.resetLine = false) :
    (t.faultCause = s.faultCause ∧ t.faultByte = s.faultByte)
    ∨ (s.fsm ≠ .faulted ∧ t.fsm = .faulted ∧ s.nextAnswer = .fail
        ∧ ∃ e rest, s.seq = e :: rest ∧ e.onBus = true ∧ t.faultCause = failCause e ∧ t.faultByte = failByte e) := by
  cases heff with
  | reset hreset => simp [hr] at hreset
  | hold | done | refused | begun | loaded => exact .inl ⟨rfl, rfl⟩
  | @failed e rest _ hf hs hbus ha => exact .inr ⟨hf, rfl, ha, e, rest, hs, hbus, rfl, rfl⟩

/-- The probe stands in the sequence exactly where the parameter asks for it (rules R5, R121). -/
theorem probe_mem_initSeq_iff (p : Bool) : .probe ∈ initSeq p ↔ p = true := by
  cases p <;> decide

/-- Only BEGIN brings a probe to an idle block, and only where the parameter asks for it (rules R55, R121). -/
theorem exec_probe_from_begin {i : Instr} {s t : State} (hs : s.seq = []) (h : exec i s = .next t)
    (hprobe : .probe ∈ t.seq) : s.probeAtBegin = true ∧ ∃ c r, i = .beginInit c r := by
  obtain rfl | ⟨-, -, -, rfl⟩ | ⟨c, r, hi, -, -, -, rfl⟩ | ⟨es, hp, -, -, -, rfl⟩ | ⟨es, hp, -, -, rfl⟩ := exec_next h
  · simp [hs] at hprobe
  · simp [hs] at hprobe
  · exact ⟨(probe_mem_initSeq_iff _).mp hprobe, c, r, hi⟩
  · exact absurd hprobe hp.noProbe
  · rw [hs] at hprobe
    exact absurd hprobe hp.noProbe

/-- STRING_END loads its wait or nothing (rule R152). -/
theorem exec_stringEnd_seq {s t : State} (h : exec .stringEnd s = .next t) : t.seq = s.seq ∨ t.seq = [.wait .str] := by
  obtain ⟨-, rfl⟩ | ⟨-, -, h⟩ | ⟨-, -, h⟩ := acceptRequest_next h
  · exact .inl rfl
  · cases h
    exact .inl rfl
  · cases h
    exact .inr rfl

/-- Settles O38: `StepEffect.record_cases` with what a failed bus event records, then what the requests load. -/
theorem faultRecord : Obligations.FaultRecord := by
  refine ⟨rfl, rfl, rfl, ?_, fun i s t => exec_probe_from_begin, ?_⟩
  · intro s t h hstep hr
    refine ((step_effect h.latchEmpty hstep).record_cases hr).imp_right ?_
    rintro ⟨hf, ht, ha, e, rest, hs, hbus, hcause, hbyte⟩
    refine ⟨hf, ht, ha, ?_⟩
    rw [hcause, hbyte]
    obtain ⟨b, rfl, hc, hb⟩ | ⟨rfl, hc, hb⟩ := failRecord_cases hbus
    · exact .inl ⟨b, rest, hs, hc, hb⟩
    · exact .inr ⟨rest, hs, hc, hb⟩
  · intro s t hs hx e he
    obtain hseq | hseq := exec_stringEnd_seq hx
    · simp [hseq, hs] at he
    · obtain rfl : e = .wait .str := by simpa [hseq] using he
      rfl

/-! STATUS. -/

theorem State.status_state (s : State) : s.status.extractLsb' 0 2 = fsmCode s.fsm := by
  apply BitVec.eq_of_getLsbD_eq
  intro i hi
  interval_cases i <;> simp [State.status]

theorem State.status_busy (s : State) : s.status.getLsbD 2 = s.busy := by
  simp [State.status]

theorem State.status_fatal (s : State) : s.status.getLsbD 3 = s.fatal := by
  simp [State.status]

theorem State.status_cause (s : State) : s.status.extractLsb' 4 2 = causeCode s.faultCause := by
  apply BitVec.eq_of_getLsbD_eq
  intro i hi
  interval_cases i <;> simp [State.status]

theorem State.status_zeros (s : State) : s.status.extractLsb' 6 2 = 0#2 := by
  apply BitVec.eq_of_getLsbD_eq
  intro i hi
  interval_cases i <;> simp [State.status]

theorem State.status_faultByte (s : State) : s.status.extractLsb' 8 8 = s.faultByte := by
  apply BitVec.eq_of_getLsbD_eq
  intro i hi
  interval_cases i <;> simp [State.status]

/-- FATAL is `fsm = FAULTED` (rule R31). -/
theorem State.status_fatal_iff (s : State) : s.status.getLsbD 3 = true ↔ s.fsm = .faulted := by
  rw [s.status_fatal, s.fatal_iff]

/-- Settles O44: field by field, and FATAL is high exactly in FAULTED, where a step changes nothing. -/
theorem statusWord : Obligations.StatusWord := by
  refine ⟨fun s => ⟨?_, ?_, s.status_fatal_iff, ?_, s.status_zeros, s.status_faultByte⟩, ?_⟩
  · rw [s.status_state]
    cases s.fsm <;> rfl
  · rw [s.status_busy, s.busy_iff]
  · rw [s.status_cause]
    cases s.faultCause <;> rfl
  · intro s t hstep hfatal hr
    rw [step_faulted hr (s.status_fatal_iff.mp hfatal)] at hstep
    cases hstep
    exact hfatal

/-! The geometry. -/

/-- The geometry is kept, or written by an accepted BEGIN with its legal operands (rules R22, R120). -/
theorem StepEffect.geometry_cases {s t : State} (heff : StepEffect s t) (hr : s.resetLine = false) :
    (t.cols = s.cols ∧ t.rows = s.rows)
    ∨ ∃ w ws c r, s.requests = w :: ws ∧ decodeRequest w = .ok (.beginInit c r) ∧ t.cols = some c ∧ t.rows = some r
        ∧ geometryLegal c r = true := by
  cases heff with
  | reset hreset => simp [hr] at hreset
  | hold | done | failed | refused | loaded => exact .inl ⟨rfl, rfl⟩
  | @begun w ws c r _ _ _ hq hw hg => exact .inr ⟨w, ws, c, r, hq, hw, rfl, rfl, hg⟩

/-- A register that holds no value is no geometry to the calculator (rule R22). -/
theorem State.geometry_eq_none {s : State} (h : s.cols = none ∨ s.rows = none) : s.geometry = none := by
  cases hg : s.geometry with
  | none => rfl
  | some g =>
    obtain ⟨hc, hr, -⟩ := (s.geometry_eq_some g.1 g.2).mp hg
    simp [hc, hr] at h

/-- An instruction leaves `fsm` alone or goes to INITIALIZING: none enters FAULTED (rules R120, R140, R191). -/
theorem exec_fsm {i : Instr} {s t : State} (h : exec i s = .next t) : t.fsm = s.fsm ∨ t.fsm = .initializing := by
  obtain rfl | ⟨-, -, -, rfl⟩ | ⟨-, -, -, -, -, -, rfl⟩ | ⟨-, -, -, -, -, rfl⟩ | ⟨-, -, -, -, rfl⟩ := exec_next h
  · exact .inl rfl
  · exact .inl rfl
  · exact .inr rfl
  · exact .inl rfl
  · exact .inl rfl

/-- An event keeps the geometry, failed or not (rules R22, R191). -/
theorem State.performEvent_geometry {s : State} (hf : s.fsm ≠ .faulted) (hs : s.seq ≠ []) :
    s.performEvent.cols = s.cols ∧ s.performEvent.rows = s.rows := by
  obtain ⟨e, rest, hs⟩ := List.exists_cons_of_ne_nil hs
  obtain ⟨-, more, heq⟩ | ⟨-, -, heq⟩ := State.performEvent_outcome hs hf <;> rw [heq] <;> exact ⟨rfl, rfl⟩

/-- Only an event enters FAULTED, so entry keeps the geometry (rules R22, R191). -/
theorem step_fault_keeps_geometry {s t : State} (h : step s = .next t) (hr : s.resetLine = false)
    (hf : s.fsm ≠ .faulted) (ht : t.fsm = .faulted) : t.cols = s.cols ∧ t.rows = s.rows := by
  obtain ⟨hreset, -⟩ | rfl | ⟨-, hs, rfl⟩ | ⟨latch, ws, rfl | ⟨i, hx⟩⟩ := step_next_anyLatch h
  · simp [hr] at hreset
  · exact ⟨rfl, rfl⟩
  · exact State.performEvent_geometry hf hs
  · exact ⟨rfl, rfl⟩
  · have hfsm := exec_fsm hx
    simp [ht, hf.symm] at hfsm

/-- Settles O55: by `StepEffect.geometry_cases`, the refused SET_CURSOR and `step_fault_keeps_geometry`. -/
theorem geometryWrittenOnlyByBegin : Obligations.GeometryWrittenOnlyByBegin := by
  refine ⟨⟨rfl, rfl, ?_⟩, ?_, ?_, fun s t => step_fault_keeps_geometry⟩
  · intro s h hu
    obtain ⟨-, -, hc, hr⟩ := h.uninitIdle hu
    exact ⟨hc, hr⟩
  · intro s t h hstep hr
    have hcases := (step_effect h.latchEmpty hstep).geometry_cases hr
    simpa only [geometryLegal_iff] using hcases
  · intro s t col row hg hx
    obtain rfl | rfl := exec_setCursor_noGeometry (State.geometry_eq_none hg) hx <;> exact ⟨rfl, rfl⟩

end Sys2Proof.Machine
end

section
/-! Bus and event steps: the device address and where a trace entry went (rules R51, R65), and the event step with what
it changes and leaves alone (rules R54, R56, R191). -/

namespace Sys2Proof.Machine

/-! The event step. -/

/-- An idle block to which nothing is presented stays as it is, FAULTED or not (rules R81, R191; log 14). -/
theorem step_nothing_presented {s : State} (hs : s.seq = []) (hc : s.cmdIn = none) (hq : s.requests = [])
    (hr : s.resetLine = false) : step s = .next s := by
  by_cases hf : s.fsm = .faulted
  · exact step_faulted hr hf
  · exact step_take_hold hr hf hs (by simp [takeNext, hc, hq])

/-- The step of a busy block with its head event at hand (rule R56). -/
theorem step_head_event {s : State} {e : Event} {rest : List Event} (hf : s.fsm ≠ .faulted) (hr : s.resetLine = false)
    (hs : s.seq = e :: rest) : step s = .next s.performEvent :=
  step_busy hr hf (by simp [hs])

/-- Settles O35: the step is `performEvent`, split by the head event and, for a write or a probe, by its answer. -/
theorem eventStep : Obligations.EventStep := by
  refine ⟨?_, ?_, ?_, fun s => step_nothing_presented⟩
  · intro s k rest hf hr hs
    rw [step_head_event hf hr hs, State.performEvent_wait hs hf]
  · intro s b rest hf hr hs
    rw [step_head_event hf hr hs]
    cases ha : s.nextAnswer with
    | ok => rw [State.performEvent_write_ok hs hf ha]
    | fail => rw [State.performEvent_write_fail hs ha]
  · intro s rest hf hr hs
    rw [step_head_event hf hr hs]
    cases ha : s.nextAnswer with
    | ok => rw [State.performEvent_probe_ok hs hf ha]
    | fail => rw [State.performEvent_probe_fail hs ha]

/-- Settles O57: an event step is `afterEvents`, which writes no fault record, or `afterFailure`, which enters FAULTED. -/
theorem eventFrame : Obligations.EventFrame := by
  intro s hf hr hne
  obtain ⟨e, rest, hs⟩ := List.exists_cons_of_ne_nil hne
  have hstep := step_busy hr hf hne
  obtain ⟨-, more, heq⟩ | ⟨-, -, heq⟩ := State.performEvent_outcome hs hf
  · have htail : (s.afterEvents [e] rest more).seq = s.seq.tail := by
      rw [hs]
      rfl
    exact ⟨s.afterEvents [e] rest more, tracedOk e, heq ▸ hstep, rfl, rfl, rfl, rfl, rfl, rfl, rfl, rfl, rfl,
      fun _ => ⟨rfl, rfl⟩, .inl htail⟩
  · exact ⟨s.afterFailure e, tracedFail e, heq ▸ hstep, rfl, rfl, rfl, rfl, rfl, rfl, rfl, rfl, rfl,
      fun hlive => absurd rfl hlive, .inr ⟨rfl, rfl⟩⟩

/-! The bus address. -/

/-- `DEV_ADDR8` is twice `DEV_ADDR7`: no bit of the 7-bit address is shifted out (rule R51). -/
theorem devAddr8_toNat : Config.devAddr8.toNat = 2 * Config.devAddr7.toNat := by
  have hlt : Config.devAddr7.toNat < 2 ^ 7 := Config.devAddr7.isLt
  rw [Config.devAddr8, BitVec.toNat_shiftLeft, BitVec.toNat_setWidth, Nat.shiftLeft_eq]
  omega

/-- The read/write bit of `DEV_ADDR8` is low (rule R51). -/
theorem devAddr8_readWriteBit : Config.devAddr8.getLsbD 0 = false := by
  simp [Config.devAddr8]

/-- Every trace entry but a wait went to `DEV_ADDR8` (rules R51, R65). -/
theorem Traced.busAddress_of_ne_wait {t : Traced} (h : ∀ k, t ≠ .wait k) : t.busAddress = some Config.devAddr8 := by
  cases t with
  | wait k => exact absurd rfl (h k)
  | write | probe | cut => rfl

/-- A bus event enters the trace as no wait, whichever answer it got (rules R54, R65). -/
theorem traced_ne_wait {e : Event} (hbus : e.onBus = true) (k : WaitKind) :
    tracedOk e ≠ .wait k ∧ tracedFail e ≠ .wait k := by
  cases e with
  | wait => cases hbus
  | write | probe => exact ⟨nofun, nofun⟩

/-- Settles O36: the address in numbers, then by the kind of trace entry; a lined up answer is `State.nextAnswer_cons`. -/
theorem busInterface : Obligations.BusInterface := by
  refine ⟨devAddr8_toNat, devAddr8_readWriteBit, fun t => Traced.busAddress_of_ne_wait, fun k => rfl, ?_,
    fun s a as => State.nextAnswer_cons rfl⟩
  intro e hbus
  have hne := traced_ne_wait hbus
  exact ⟨Traced.busAddress_of_ne_wait fun k => (hne k).1, Traced.busAddress_of_ne_wait fun k => (hne k).2⟩

end Sys2Proof.Machine
end

section
/-! The encodings (rules R70 to R72, R77 to R79). A request word is its four fields in a row; so the word of a request and
the fields the decoder reads are compared field by field. -/

namespace Sys2Proof

/-! The fields of a request word. -/

/-- The request word with the given fields (rule R70). -/
def wordOf (op : BitVec 4) (high : BitVec 12) (mid low : Byte) : ReqWord := op ++ high ++ mid ++ low

@[simp] theorem opField_wordOf (op : BitVec 4) (high : BitVec 12) (mid low : Byte) :
    opField (wordOf op high mid low) = op := by
  ext i hi
  simp only [opField, wordOf, BitVec.getElem_extractLsb', BitVec.getLsbD_append]
  grind

@[simp] theorem highField_wordOf (op : BitVec 4) (high : BitVec 12) (mid low : Byte) :
    highField (wordOf op high mid low) = high := by
  ext i hi
  simp only [highField, wordOf, BitVec.getElem_extractLsb', BitVec.getLsbD_append]
  grind

@[simp] theorem midField_wordOf (op : BitVec 4) (high : BitVec 12) (mid low : Byte) :
    midField (wordOf op high mid low) = mid := by
  ext i hi
  simp only [midField, wordOf, BitVec.getElem_extractLsb', BitVec.getLsbD_append]
  grind

@[simp] theorem lowField_wordOf (op : BitVec 4) (high : BitVec 12) (mid low : Byte) :
    lowField (wordOf op high mid low) = low := by
  ext i hi
  simp only [lowField, wordOf, BitVec.getElem_extractLsb', BitVec.getLsbD_append]
  grind

/-- A word is its own fields put together. -/
theorem wordOf_fields (w : ReqWord) : wordOf (opField w) (highField w) (midField w) (lowField w) = w := by
  unfold wordOf opField highField midField lowField
  rw [BitVec.extractLsb'_append_extractLsb'_eq_extractLsb' (by rfl),
    BitVec.extractLsb'_append_extractLsb'_eq_extractLsb' (by rfl),
    BitVec.extractLsb'_append_extractLsb'_eq_extractLsb' (by rfl)]
  exact BitVec.extractLsb'_eq_self

/-- An opcode over two operand bytes, as the encoder writes it (rules R70, R71). -/
theorem or_operands_eq_wordOf (op : BitVec 4) (mid low : Byte) :
    op.setWidth 32 <<< 28 ||| mid.setWidth 32 <<< 8 ||| low.setWidth 32 = wordOf op 0 mid low := by
  apply BitVec.eq_of_getLsbD_eq
  intro i hi
  simp only [wordOf, BitVec.getLsbD_append, BitVec.getLsbD_or, BitVec.getLsbD_shiftLeft, BitVec.getLsbD_setWidth]
  grind

theorem encode_beginInit (cols rows : Byte) : encode (.beginInit cols rows) = .request (wordOf 1 0 cols rows) :=
  congrArg Code.request (or_operands_eq_wordOf 1 cols rows)

theorem encode_setCursor (col row : Byte) : encode (.setCursor col row) = .request (wordOf 4 0 col row) :=
  congrArg Code.request (or_operands_eq_wordOf 4 col row)

theorem encode_putChar (char : Byte) : encode (.putChar char) = .request (wordOf 5 0 0 char) := by
  rw [← or_operands_eq_wordOf]
  rfl

theorem encode_clear : encode .clear = .request (wordOf 2 0 0 0) := rfl

theorem encode_home : encode .home = .request (wordOf 3 0 0 0) := rfl

theorem encode_stringEnd : encode .stringEnd = .request (wordOf 6 0 0 0) := rfl

/-- SET_DDRAM's byte has bit 7 set, and the address in the other seven (rules R77, R147). -/
theorem decodeCommand_setDdramByte (a : BitVec 7) :
    decodeCommand (Machine.setDdramByte a) = .ok (.cmdSetDdram a) := by
  have htop : (Machine.setDdramByte a).getLsbD 7 = true := by simp [Machine.setDdramByte]
  have haddr : (Machine.setDdramByte a).extractLsb' 0 7 = a := by
    apply BitVec.eq_of_getLsbD_eq
    intro i hi
    interval_cases i <;> simp [Machine.setDdramByte]
  rw [decodeCommand, if_pos htop, haddr]

/-- Settles O1: the decoder reads back the fields that the encoder wrote; a command byte with no operand is evaluated. -/
theorem decodeOfEncodeIsTheInstruction : Obligations.DecodeOfEncodeIsTheInstruction := by
  intro i
  cases i with
  | beginInit | clear | home | setCursor | putChar | stringEnd =>
    simp [encode_beginInit, encode_clear, encode_home, encode_setCursor, encode_putChar, encode_stringEnd, decode,
      decodeRequest]
  | cmdSetDdram a => exact decodeCommand_setDdramByte a
  | _ => rfl

/-- Rules R70, R72: exactly the encoding of a request decodes to it. -/
theorem decodeRequest_eq_ok_iff (w : ReqWord) (i : Instr) :
    decodeRequest w = .ok i ↔ encode i = .request w ∧ i.isRequest = true := by
  constructor
  · intro h
    refine ⟨?_, Machine.decodeRequest_isRequest h⟩
    rw [← wordOf_fields w]
    unfold decodeRequest at h
    split_ifs at h with hop hf hop hf hop hf hop hf hop hf hop hf <;> cases h
    · rw [encode_beginInit, hop, hf]
    · obtain ⟨hh, hm, hl⟩ := hf
      rw [encode_clear, hop, hh, hm, hl]
    · obtain ⟨hh, hm, hl⟩ := hf
      rw [encode_home, hop, hh, hm, hl]
    · rw [encode_setCursor, hop, hf]
    · obtain ⟨hh, hm⟩ := hf
      rw [encode_putChar, hop, hh, hm]
    · obtain ⟨hh, hm, hl⟩ := hf
      rw [encode_stringEnd, hop, hh, hm, hl]
  · rintro ⟨hw, -⟩
    have hi : decode (encode i) = .ok i := decodeOfEncodeIsTheInstruction i
    rwa [hw] at hi

/-- Settles O2. -/
theorem requestWordHasOneMeaning : Obligations.RequestWordHasOneMeaning :=
  fun w i => (decodeRequest_eq_ok_iff w i).mp

/-! The fields in numbers. -/

theorem opField_toNat (w : ReqWord) : (opField w).toNat = w.toNat / 2 ^ 28 := by
  have hlt := w.isLt
  rw [opField, BitVec.extractLsb'_toNat, Nat.shiftRight_eq_div_pow]
  omega

theorem highField_toNat (w : ReqWord) : (highField w).toNat = w.toNat / 2 ^ 16 % 2 ^ 12 := by
  rw [highField, BitVec.extractLsb'_toNat, Nat.shiftRight_eq_div_pow]

theorem midField_toNat (w : ReqWord) : (midField w).toNat = w.toNat / 2 ^ 8 % 2 ^ 8 := by
  rw [midField, BitVec.extractLsb'_toNat, Nat.shiftRight_eq_div_pow]

theorem lowField_toNat (w : ReqWord) : (lowField w).toNat = w.toNat % 2 ^ 8 := by
  rw [lowField, BitVec.extractLsb'_toNat, Nat.shiftRight_zero]

theorem midField_eq_ofNat (w : ReqWord) : midField w = BitVec.ofNat 8 (w.toNat / 2 ^ 8) := by
  rw [← Nat.shiftRight_eq_div_pow]
  rfl

theorem lowField_eq_ofNat (w : ReqWord) : lowField w = BitVec.ofNat 8 w.toNat := rfl

theorem opField_eq_iff (w : ReqWord) (op : BitVec 4) : opField w = op ↔ w.toNat / 2 ^ 28 = op.toNat := by
  rw [← BitVec.toNat_inj, opField_toNat]

theorem highField_eq_zero_iff (w : ReqWord) : highField w = 0 ↔ w.toNat / 2 ^ 16 % 2 ^ 12 = 0 := by
  rw [← BitVec.toNat_inj, highField_toNat]
  rfl

theorem midField_eq_zero_iff (w : ReqWord) : midField w = 0 ↔ w.toNat / 2 ^ 8 % 2 ^ 8 = 0 := by
  rw [← BitVec.toNat_inj, midField_toNat]
  rfl

theorem lowField_eq_zero_iff (w : ReqWord) : lowField w = 0 ↔ w.toNat % 2 ^ 8 = 0 := by
  rw [← BitVec.toNat_inj, lowField_toNat]
  rfl

/-- Bits 27 to 8, which rule R70's table marks 0 for PUT_CHAR. -/
theorem highMid_eq_zero_iff (w : ReqWord) :
    (highField w = 0 ∧ midField w = 0) ↔ w.toNat / 2 ^ 8 % 2 ^ 20 = 0 := by
  rw [highField_eq_zero_iff, midField_eq_zero_iff]
  omega

/-- Bits 27 to 0, which rule R70's table marks 0 for CLEAR, HOME and STRING_END. -/
theorem belowOp_eq_zero_iff (w : ReqWord) :
    (highField w = 0 ∧ midField w = 0 ∧ lowField w = 0) ↔ w.toNat % 2 ^ 28 = 0 := by
  rw [highField_eq_zero_iff, midField_eq_zero_iff, lowField_eq_zero_iff]
  omega

/-- Settles O3: the decoder's tests on fields are the statement's tests on numbers, in the same order. -/
theorem requestDecodingFollowsTheTable : Obligations.RequestDecodingFollowsTheTable := by
  intro w
  simp only [decodeRequest, ↓belowOp_eq_zero_iff, ↓highMid_eq_zero_iff, highField_eq_zero_iff, opField_eq_iff,
    midField_eq_ofNat, lowField_eq_ofNat, apply_ite Except.toOption]
  rfl

/-! The fields under the statement's masks. -/

theorem wordOf_and (op op' : BitVec 4) (high high' : BitVec 12) (mid mid' low low' : Byte) :
    wordOf op high mid low &&& wordOf op' high' mid' low'
      = wordOf (op &&& op') (high &&& high') (mid &&& mid') (low &&& low') := by
  simp only [wordOf]
  rw [BitVec.and_append, BitVec.and_append, BitVec.and_append]

theorem wordOf_inj {op op' : BitVec 4} {high high' : BitVec 12} {mid mid' low low' : Byte} :
    wordOf op high mid low = wordOf op' high' mid' low' ↔ op = op' ∧ high = high' ∧ mid = mid' ∧ low = low' := by
  constructor
  · intro h
    exact ⟨by simpa using congrArg opField h, by simpa using congrArg highField h, by simpa using congrArg midField h,
      by simpa using congrArg lowField h⟩
  · rintro ⟨rfl, rfl, rfl, rfl⟩
    rfl

/-- A word under a mask that covers whole fields is 0 exactly when those fields are. -/
theorem and_wordOf_eq_zero_iff (w : ReqWord) (op : BitVec 4) (high : BitVec 12) (mid low : Byte) :
    w &&& wordOf op high mid low = 0
      ↔ opField w &&& op = 0 ∧ highField w &&& high = 0 ∧ midField w &&& mid = 0 ∧ lowField w &&& low = 0 := by
  have hzero : (0 : ReqWord) = wordOf 0 0 0 0 := rfl
  rw [hzero, ← wordOf_inj, ← wordOf_and, wordOf_fields]

theorem and_highMask_eq_zero_iff (w : ReqWord) : w &&& 0x0FFF0000 = 0 ↔ highField w = 0 := by
  have hmask : (0x0FFF0000 : ReqWord) = wordOf 0 (BitVec.allOnes 12) 0 0 := rfl
  rw [hmask, and_wordOf_eq_zero_iff]
  simp [-BitVec.reduceAllOnes]

theorem and_highMidMask_eq_zero_iff (w : ReqWord) : w &&& 0x0FFFFF00 = 0 ↔ highField w = 0 ∧ midField w = 0 := by
  have hmask : (0x0FFFFF00 : ReqWord) = wordOf 0 (BitVec.allOnes 12) (BitVec.allOnes 8) 0 := rfl
  rw [hmask, and_wordOf_eq_zero_iff]
  simp [-BitVec.reduceAllOnes]

theorem and_belowOpMask_eq_zero_iff (w : ReqWord) :
    w &&& 0x0FFFFFFF = 0 ↔ highField w = 0 ∧ midField w = 0 ∧ lowField w = 0 := by
  have hmask : (0x0FFFFFFF : ReqWord) = wordOf 0 (BitVec.allOnes 12) (BitVec.allOnes 8) (BitVec.allOnes 8) := rfl
  rw [hmask, and_wordOf_eq_zero_iff]
  simp [-BitVec.reduceAllOnes]

theorem ushiftRight_op_toNat (w : ReqWord) : (w >>> 28).toNat = (opField w).toNat := by
  rw [opField_toNat, BitVec.toNat_ushiftRight, Nat.shiftRight_eq_div_pow]

theorem ushiftRight_op (w : ReqWord) : w >>> 28 = (opField w).setWidth 32 := by
  apply BitVec.eq_of_toNat_eq
  rw [ushiftRight_op_toNat, BitVec.toNat_setWidth]
  omega

/-- An opcode is reserved, above rule R70's six or 0, or one of the six. -/
theorem opcode_cases (op : BitVec 4) :
    (7 ≤ op.toNat ∧ op ≠ 1 ∧ op ≠ 2 ∧ op ≠ 3 ∧ op ≠ 4 ∧ op ≠ 5 ∧ op ≠ 6)
      ∨ op = 0 ∨ op = 1 ∨ op = 2 ∨ op = 3 ∨ op = 4 ∨ op = 5 ∨ op = 6 := by
  decide +revert

theorem exists_error_of_check {p : Prop} [Decidable p] (i : Instr) (e₀ : DecodeError) :
    (∃ e, (if p then Except.ok i else Except.error e₀) = .error e) ↔ ¬ p := by
  by_cases hp : p <;> simp [hp]

/-- Settles O4: opcode by opcode, the decoder's check of the reserved fields is the statement's mask. -/
theorem illegalWordsAreTheReservedOnes : Obligations.IllegalWordsAreTheReservedOnes := by
  intro w
  constructor
  · simp only [ne_eq, and_highMask_eq_zero_iff, and_highMidMask_eq_zero_iff, and_belowOpMask_eq_zero_iff]
    rw [ushiftRight_op_toNat, ushiftRight_op]
    obtain ⟨hge, h1, h2, h3, h4, h5, h6⟩ | hop | hop | hop | hop | hop | hop | hop := opcode_cases (opField w)
    · have hw : decodeRequest w = .error .reservedOpcode := by
        rw [decodeRequest, if_neg h1, if_neg h2, if_neg h3, if_neg h4, if_neg h5, if_neg h6]
      exact iff_of_true ⟨_, hw⟩ (.inr (.inl hge))
    all_goals simp [decodeRequest, hop, exists_error_of_check]
  · intro hlegal
    cases hw : decodeRequest w with
    | error e => exact absurd ⟨e, hw⟩ hlegal
    | ok i => exact ⟨i, rfl, Machine.decodeRequest_isRequest hw⟩

/-! Command bytes. -/

/-- The top bit in numbers. -/
theorem getLsbD_seven_iff (b : Byte) : b.getLsbD 7 = true ↔ 0x80 ≤ b.toNat := by
  rw [← BitVec.msb_eq_getLsbD_last, BitVec.msb_eq_decide, decide_eq_true_iff]

theorem highNibble_eq_iff (b : Byte) (n : BitVec 4) : b.extractLsb' 4 4 = n ↔ b.toNat / 16 = n.toNat := by
  have hlt := b.isLt
  rw [← BitVec.toNat_inj, BitVec.extractLsb'_toNat, Nat.shiftRight_eq_div_pow]
  omega

theorem lowBits_eq_ofNat (b : Byte) : b.extractLsb' 0 7 = BitVec.ofNat 7 b.toNat := rfl

/-- Settles O5: in numbers, the same row applies on both sides, and two different rows apply to no byte but 0x28, which
both sides read as a whole command first (log 10). -/
theorem commandByteDecoding : Obligations.CommandByteDecoding := by
  intro b
  simp only [decodeCommand, getLsbD_seven_iff, highNibble_eq_iff, lowBits_eq_ofNat, ← @BitVec.toNat_inj 8,
    apply_ite Except.toOption]
  simp only [BitVec.toNat_ofNat, BitVec.ofNat_eq_ofNat, Nat.reducePow, Nat.reduceMod]
  split_ifs
  any_goals rfl
  all_goals omega

/-- Settles O6: each word and byte is evaluated. -/
theorem writtenOutWordsDecode : Obligations.WrittenOutWordsDecode := by
  unfold Obligations.WrittenOutWordsDecode
  decide

end Sys2Proof
end

section
/-! Instructions taken: the step that takes one, when a request is accepted, and what each leaves alone (rules R72, R80 to
R82; log 7 to log 9). -/

namespace Sys2Proof.Machine

/-- Settles O7. -/
theorem stepRunsTheDecodedRequest : Obligations.StepRunsTheDecodedRequest :=
  fun _ _ _ _ => step_readyToTake_ok

/-- What a row's bits decode to is what their code decodes to. -/
theorem decodeTableWord_eq_some {nbits w : Nat} {i : Instr} (h : decodeTableWord nbits w = some i) :
    ∃ c, tableCode nbits w = some c ∧ decode c = .ok i := by
  unfold decodeTableWord at h
  split at h
  next c hc =>
    split at h
    · cases h
      exact ⟨c, hc, by assumption⟩
    · cases h
  next => cases h

/-- A placed code is what the next step takes (log 7, log 8). -/
theorem step_placeCode {s : State} {c : Code} {i : Instr} (hf : s.fsm ≠ .faulted) (hc : decode c = .ok i) :
    step (placeCode (some c) s) = exec i { s with resetLine := false, seq := [], cmdIn := none } := by
  cases c with
  | request w => exact step_take_run rfl hf rfl (congrArg (decoded · _) hc)
  | command b => exact step_take_run rfl hf rfl (congrArg (decoded · _) hc)

/-- Settles O8. -/
theorem placedInstructionRunsNext : Obligations.PlacedInstructionRunsNext := by
  intro s nbits w i hf hi
  obtain ⟨c, hcode, hc⟩ := decodeTableWord_eq_some hi
  rw [State.withFetchWord, hcode]
  exact step_placeCode hf hc

/-- A Ready-state request on a block that holds a legal geometry is accepted (rules R82, R140). -/
theorem exec_ready_accepted {i : Instr} {s : State} {c r : Byte} (hi : i.isRequest = true)
    (hb : ∀ c r, i ≠ .beginInit c r) (hf : s.fsm = .ready) (hs : s.seq = []) (hg : s.HoldsGeometry c r) :
    ∃ es, PlainEvents es ∧ exec i s = .next (s.load .ready es) := by
  obtain ⟨hc, hr, hbounds⟩ := hg
  have hgeom : s.geometry = some (c, r) := (s.geometry_eq_some c r).mpr ⟨hc, hr, (geometryLegal_iff c r).mpr hbounds⟩
  obtain ⟨inReady, hload, hx⟩ := readyRequest_admission hi hb
  obtain ⟨t, ht⟩ := hload.answers s _ hgeom
  obtain ⟨es, hes, rfl⟩ := hload.loads s t ht
  exact ⟨es, hes, by rw [hx, acceptRequest_ready _ _ hf hs, ht]⟩

/-- Settles O11: rule R82's table, row by row. -/
theorem acceptanceTable : Obligations.AcceptanceTable := by
  intro s hp
  obtain ⟨hs, hf⟩ := s.portReady_iff.mp hp
  refine ⟨hf, fun h hi => (h.initializingBusy hi).1 hs, ?_, ?_⟩
  · intro c r hlive
    constructor
    · intro hlegal
      exact ⟨_, exec_begin_accepted hlive hs ((geometryLegal_iff c r).mpr hlegal), rfl, initSeq_ne_nil _, rfl⟩
    · intro hillegal
      exact exec_begin_refused hlive hs (by simpa [← geometryLegal_iff] using hillegal)
  · intro i hi hb
    constructor
    · exact fun hu => exec_uninit_refused hi hb hu hs
    · intro hr c r hg
      obtain ⟨es, hes, hx⟩ := exec_ready_accepted hi hb hr hs hg
      exact ⟨_, hx, hr, hes.nonempty, rfl⟩

/-- Settles O56: each thing that `exec_next` lists keeps what the statement names. -/
theorem instructionFrames : Obligations.InstructionFrames := by
  constructor
  · intro i s t hi hx
    obtain rfl | ⟨-, -, -, rfl⟩ | ⟨c, r, rfl, -, -, -, rfl⟩ | ⟨es, -, -, -, -, rfl⟩ | ⟨-, -, hemitted, -⟩ :=
      exec_next hx
    · simp
    · simp [State.refuse]
    · simp [beginAccepted_eq]
    · simp
    · simp [hi] at hemitted
  · intro i s t hi hx
    obtain rfl | ⟨hreq, -⟩ | ⟨c, r, rfl, -⟩ | ⟨-, -, hreq, -⟩ | ⟨es, -, -, -, rfl⟩ := exec_next hx
    · exact ⟨[], by simp⟩
    · simp [hi] at hreq
    · cases hi
    · simp [hi] at hreq
    · exact ⟨es, rfl⟩

end Sys2Proof.Machine
end

section
/-! The nibble protocol in numbers, and with it the emitted commands and the bytes on the bus (rules R75, R77, R100 to
R105). -/

namespace Sys2Proof.Machine

/-- A high nibble over four low bits, in numbers. -/
theorem highNibble_or_toNat (v k : Byte) (hk : k.toNat < 16) :
    ((v &&& 0xF0#8) ||| k).toNat = 16 * (v.toNat / 16) + k.toNat := by
  have hmask : v &&& 0xF0#8 = v >>> 4 <<< 4 := by
    apply BitVec.eq_of_getLsbD_eq
    intro i hi
    interval_cases i <;> simp
  have hlt : v.toNat / 16 * 16 < 2 ^ 8 := (Nat.div_mul_le_self _ _).trans_lt v.isLt
  rw [hmask, BitVec.toNat_or, BitVec.toNat_shiftLeft, BitVec.toNat_ushiftRight, Nat.shiftRight_eq_div_pow,
    Nat.shiftLeft_eq, Nat.mod_eq_of_lt hlt, Nat.mul_comm]
  exact (Nat.two_pow_add_eq_or_of_lt (i := 4) hk _).symm

/-- The byte of a nibble with enable high, in numbers (rules R100, R101). -/
theorem frame_enabled (v : Byte) (m : Mode) :
    frame v m ||| enableBit = BitVec.ofNat 8 (16 * (v.toNat / 16) + 12 + (rsBit m).toNat) := by
  have h := highNibble_or_toNat v (backlightBit ||| rsBit m ||| enableBit) (by cases m <;> decide)
  have hk : (backlightBit ||| rsBit m ||| enableBit).toNat = 12 + (rsBit m).toNat := by cases m <;> decide
  rw [hk, ← BitVec.or_assoc, ← BitVec.or_assoc, ← Nat.add_assoc] at h
  rw [← h, BitVec.ofNat_toNat, BitVec.setWidth_eq, frame]

/-- The byte of a nibble with enable low, in numbers: enable is not in the frame (rules R100, R101). -/
theorem frame_disabled (v : Byte) (m : Mode) :
    frame v m &&& ~~~enableBit = BitVec.ofNat 8 (16 * (v.toNat / 16) + 8 + (rsBit m).toNat) := by
  have h := highNibble_or_toNat v (backlightBit ||| rsBit m) (by cases m <;> decide)
  have hk : (backlightBit ||| rsBit m).toNat = 8 + (rsBit m).toNat := by cases m <;> decide
  have hframe : frame v m &&& ~~~enableBit = frame v m := by
    apply BitVec.eq_of_getLsbD_eq
    intro i hi
    interval_cases i <;> cases m <;> simp [frame, backlightBit, rsBit, enableBit]
  rw [hk, ← BitVec.or_assoc, ← Nat.add_assoc] at h
  rw [hframe, ← h, BitVec.ofNat_toNat, BitVec.setWidth_eq, frame]

/-- The nibble pulse in numbers (rule R101). -/
theorem nib_eq (v : Byte) (m : Mode) :
    nib v m = [.write (BitVec.ofNat 8 (16 * (v.toNat / 16) + 12 + (rsBit m).toNat)), .wait .en,
      .write (BitVec.ofNat 8 (16 * (v.toNat / 16) + 8 + (rsBit m).toNat))] := by
  rw [nib, frame_enabled, frame_disabled]

theorem hi_toNat (b : Byte) : (hi b).toNat = 16 * (b.toNat / 16) := by
  simpa [hi] using highNibble_or_toNat b 0 (by decide)

theorem lo_toNat (b : Byte) : (lo b).toNat = 16 * (b.toNat % 16) := by
  have h : (lo b).toNat = 16 * ((b <<< 4).toNat / 16) := hi_toNat (b <<< 4)
  rw [h, BitVec.toNat_shiftLeft, Nat.shiftLeft_eq]
  omega

/-- A logical byte's expansion in numbers, in either mode (rules R102 to R105). -/
theorem byteEvents_eq_logicalByte (b : Byte) (m : Mode) (k : WaitKind) :
    nib (hi b) m ++ nib (lo b) m ++ [.wait k] = logicalByte b.toNat (rsBit m).toNat k := by
  rw [nib_eq, nib_eq, hi_toNat, lo_toNat, Nat.mul_div_cancel_left _ (by decide), Nat.mul_div_cancel_left _ (by decide)]
  rfl

theorem cmdEvents_eq_logicalByte (b : Byte) : cmdEvents b = logicalByte b.toNat 0 .cmd :=
  byteEvents_eq_logicalByte b .command .cmd

theorem setDdramByte_toNat (a : BitVec 7) : (setDdramByte a).toNat = 0x80 + a.toNat := by
  rw [setDdramByte, BitVec.toNat_or, BitVec.toNat_setWidth]
  have hlt : a.toNat < 2 ^ 7 := a.isLt
  rw [Nat.mod_eq_of_lt (by omega)]
  exact (Nat.two_pow_add_eq_or_of_lt (i := 7) hlt 1).symm

/-- CMD run alone, in numbers (rules R77, R103; log 9). -/
theorem sendCommand_live {s : State} (hf : s.fsm ≠ .faulted) (b : Byte) :
    sendEvents (cmdEvents b) s = .next { s with seq := s.seq ++ logicalByte b.toNat 0 .cmd } := by
  rw [sendEvents_live hf, cmdEvents_eq_logicalByte]

/-- Settles O34: a nibble's two bytes are evaluated, a command byte's events are `logicalByte`. -/
theorem commandsAppendTheirEvents : Obligations.CommandsAppendTheirEvents := by
  intro s hf
  refine ⟨sendEvents_live hf, sendEvents_live hf, sendCommand_live hf functionSetByte, sendCommand_live hf displayOffByte,
    sendCommand_live hf clearByte, sendCommand_live hf entryModeByte, sendCommand_live hf displayOnByte,
    sendCommand_live hf homeByte, fun a => ?_⟩
  rw [← setDdramByte_toNat]
  exact sendCommand_live hf (setDdramByte a)

/-! The bytes on the bus. -/

theorem wireLegal_iff (b : Byte) : wireLegal b = true ↔ b.getLsbD 3 = true ∧ b.getLsbD 1 = false := by
  simp [wireLegal]

/-- The mode whose bit RS is bit 0 of a byte (rule R53). -/
def modeOf (b : Byte) : Mode := if b.getLsbD 0 then .data else .command

theorem write_mem_nib_iff (v : Byte) (m : Mode) (b : Byte) :
    .write b ∈ nib v m ↔ b = frame v m ||| enableBit ∨ b = frame v m &&& ~~~enableBit := by
  simp [nib]

/-- A legal byte is in the pulse of its own high nibble, first where enable is high in it (rules R75, R101). -/
theorem mem_nib_of_wireLegal {b : Byte} (h : wireLegal b = true) : .write b ∈ nib b (modeOf b) := by
  obtain ⟨h3, h1⟩ := (wireLegal_iff b).mp h
  rw [write_mem_nib_iff]
  refine (Bool.eq_false_or_eq_true (b.getLsbD 2)).imp (fun h2 => BitVec.eq_of_getLsbD_eq fun i hi => ?_)
    (fun h2 => BitVec.eq_of_getLsbD_eq fun i hi => ?_)
  all_goals
    cases h0 : b.getLsbD 0 <;> interval_cases i <;> simp_all [modeOf, frame, backlightBit, rsBit, enableBit]

/-- Settles O32: each legal byte is in the pulse of its own nibble, `nib_legal` says that there are no others, and the
invariant keeps the pending and the traced bytes legal. -/
theorem transmittedByteSet : Obligations.TransmittedByteSet := by
  simp only [Obligations.TransmittedByteSet, ← wireLegal_iff]
  refine ⟨fun b => ⟨fun h => ⟨b, modeOf b, mem_nib_of_wireLegal h⟩, ?_⟩, by decide, fun s b h => h.seqLegal b,
    fun s t b h ht => h.traceLegal t ht b⟩
  rintro ⟨v, m, h⟩
  exact nib_legal v m b h

end Sys2Proof.Machine
end

section
/-! Command mode: which instructions bring a write with RS at 1 (rules R53, R78, R103, R104). -/

namespace Sys2Proof.Machine

/-- Events that write nothing with RS at 1 (rule R53). -/
def CommandMode (es : List Event) : Prop := ∀ b, .write b ∈ es → b.getLsbD 0 = false

theorem CommandMode.append {as bs : List Event} (ha : CommandMode as) (hb : CommandMode bs) : CommandMode (as ++ bs) :=
  fun b h => (List.mem_append.mp h).elim (ha b) (hb b)

theorem commandMode_nil : CommandMode [] := nofun

theorem commandMode_wait (k : WaitKind) : CommandMode [.wait k] := by simp [CommandMode]

theorem commandMode_nib (v : Byte) : CommandMode (nib v .command) := by
  intro b h
  rw [write_mem_nib_iff] at h
  obtain rfl | rfl := h <;> simp [frame, backlightBit, rsBit, enableBit]

theorem commandMode_cmdEvents (b : Byte) : CommandMode (cmdEvents b) :=
  ((commandMode_nib _).append (commandMode_nib _)).append (commandMode_wait _)

/-- The whole initialization sequence is sent in command mode (rules R122 to R125). -/
theorem commandMode_initSeq (p : Bool) : CommandMode (initSeq p) := by
  have hprobe : CommandMode (probeStep p) := by cases p <;> simp [CommandMode, probeStep]
  have hnib (v : Byte) (k : WaitKind) : CommandMode (nib v .command ++ [.wait k]) :=
    (commandMode_nib v).append (commandMode_wait k)
  have hstepA : CommandMode stepA := by
    simpa only [stepA, List.append_assoc] using
      ((hnib fs8BitByte .init1).append (hnib fs8BitByte .init2)).append (hnib fs8BitByte .init3)
  exact ((((((hprobe.append hstepA).append (hnib _ _)).append (commandMode_cmdEvents _)).append
    (commandMode_cmdEvents _)).append (commandMode_cmdEvents _)).append (commandMode_cmdEvents _)).append
    (commandMode_cmdEvents _)

/-- A meaning that adds no event to those pending but some in command mode. -/
def BringsCommandMode (f : State → Result) : Prop :=
  ∀ s t, f s = .next t → ∃ es, CommandMode es ∧ ∀ e ∈ t.seq, e ∈ s.seq ∨ e ∈ es

theorem refuseRequest_bringsCommandMode : BringsCommandMode refuseRequest := by
  intro s t h
  cases h
  exact ⟨[], commandMode_nil, fun e => .inl⟩

theorem loadReady_bringsCommandMode {es : List Event} (hes : CommandMode es) : BringsCommandMode (loadReady es) := by
  intro s t h
  cases h
  exact ⟨es, hes, fun e => .inr⟩

/-- SET_CURSOR sends a command byte (rule R147). -/
theorem loadSetCursor_bringsCommandMode (col row : Byte) : BringsCommandMode (loadSetCursor col row) := by
  intro s t h
  unfold loadSetCursor at h
  split at h
  · exact loadReady_bringsCommandMode (commandMode_cmdEvents _) s t h
  · cases h

/-- BEGIN loads the initialization sequence or is refused (rules R82, R120). -/
theorem tryBegin_bringsCommandMode (c r : Byte) : BringsCommandMode (tryBegin c r) := by
  intro s t h
  unfold tryBegin at h
  split at h
  · cases h
    exact ⟨_, commandMode_initSeq _, fun e => .inr⟩
  · exact refuseRequest_bringsCommandMode s t h

/-- Admission adds nothing of its own (rules R81, R82). -/
theorem acceptRequest_bringsCommandMode {inUninit inReady : State → Result} (hu : BringsCommandMode inUninit)
    (hr : BringsCommandMode inReady) : BringsCommandMode (acceptRequest inUninit inReady) := by
  intro s t h
  obtain ⟨-, rfl⟩ | ⟨-, -, h⟩ | ⟨-, -, h⟩ := acceptRequest_next h
  · exact ⟨[], commandMode_nil, fun e => .inl⟩
  · exact hu s t h
  · exact hr s t h

theorem acceptReady_bringsCommandMode {es : List Event} (hes : CommandMode es) : BringsCommandMode (acceptReady es) :=
  acceptRequest_bringsCommandMode refuseRequest_bringsCommandMode (loadReady_bringsCommandMode hes)

/-- An emitted command in command mode (log 9). -/
theorem sendEvents_bringsCommandMode {es : List Event} (hes : CommandMode es) : BringsCommandMode (sendEvents es) := by
  intro s t h
  obtain ⟨-, rfl⟩ | ⟨-, rfl⟩ := sendEvents_next h
  · exact ⟨[], commandMode_nil, fun e => .inl⟩
  · exact ⟨es, hes, fun e => List.mem_append.mp⟩

/-- Every instruction but PUT_CHAR (rules R78, R103, R104). -/
theorem exec_bringsCommandMode {i : Instr} (hi : ∀ char, i ≠ .putChar char) : BringsCommandMode (exec i) := by
  cases i with
  | beginInit c r =>
    exact acceptRequest_bringsCommandMode (tryBegin_bringsCommandMode c r) (tryBegin_bringsCommandMode c r)
  | setCursor col row =>
    exact acceptRequest_bringsCommandMode refuseRequest_bringsCommandMode (loadSetCursor_bringsCommandMode col row)
  | putChar char => exact absurd rfl (hi char)
  | clear | home => exact acceptReady_bringsCommandMode (commandMode_cmdEvents _)
  | stringEnd => exact acceptReady_bringsCommandMode (commandMode_wait _)
  | fs8BitNibble | fs4BitNibble => exact sendEvents_bringsCommandMode (commandMode_nib _)
  | _ => exact sendEvents_bringsCommandMode (commandMode_cmdEvents _)

/-- Settles O33: an instruction that is no PUT_CHAR brings writes in command mode only. -/
theorem dataModeOnlyFromPutChar : Obligations.DataModeOnlyFromPutChar := by
  intro i s t b hx hb hnew hrs
  by_contra hi
  obtain ⟨es, hes, hfrom⟩ := exec_bringsCommandMode (by simpa using hi) s t hx
  have hcmd : b.getLsbD 0 = false := hes b ((hfrom _ hb).resolve_left hnew)
  exact Bool.false_ne_true (hcmd.symm.trans hrs)

end Sys2Proof.Machine
end

section
/-! The nibble protocol's statements (rules R100 to R105): the frame in numbers, the enable bit of a pulse, the pulse whose
write fails, and the bytes a logical byte writes. -/

namespace Sys2Proof.Machine

/-! The frame. -/

/-- The frame in numbers: the high nibble over backlight and RS (rule R100). -/
theorem frame_toNat (v : Byte) (m : Mode) : (frame v m).toNat = 16 * (v.toNat / 16) + 8 + (rsBit m).toNat := by
  have h := highNibble_or_toNat v (backlightBit ||| rsBit m) (by cases m <;> decide)
  have hk : (backlightBit ||| rsBit m).toNat = 8 + (rsBit m).toNat := by cases m <;> decide
  rw [frame, BitVec.or_assoc, h, hk, Nat.add_assoc]

/-- The low nibble of a frame's operand is dropped (rule R100). -/
theorem frame_highNibble (v : Byte) (m : Mode) : frame (v &&& 0xF0#8) m = frame v m := by
  rw [frame, BitVec.and_assoc, BitVec.and_self, frame]

/-- Settles O28: `frame_toNat` in each mode. -/
theorem frameByte : Obligations.FrameByte := by
  intro v
  constructor <;> rw [frame_toNat, Nat.mul_comm] <;> rfl

/-! The enable bit. -/

/-- Clearing enable changes no frame (rule R101: "equals `frame(v, rs)`"). -/
theorem frame_clear_enable (v : Byte) (m : Mode) : frame v m &&& ~~~enableBit = frame v m := by
  rw [frame_disabled, ← frame_toNat, BitVec.ofNat_toNat, BitVec.setWidth_eq]

/-- Enable is not in a frame, so setting it adds it (rule R101). -/
theorem frame_set_enable (v : Byte) (m : Mode) : frame v m ||| enableBit = frame v m + 4 := by
  apply BitVec.eq_of_toNat_eq
  have h4 : (4 : Byte).toNat = 4 := rfl
  rw [frame_enabled, BitVec.toNat_add, frame_toNat, BitVec.toNat_ofNat, h4]
  omega

/-- The two bytes of a pulse differ in enable alone (rule R101). -/
theorem frame_enable_xor (v : Byte) (m : Mode) : (frame v m + 4) ^^^ frame v m = 4 := by
  obtain ⟨-, -, h2⟩ : _ ∧ _ ∧ (frame v m)[2] = false := frame_bits v m
  rw [← frame_set_enable]
  apply BitVec.eq_of_getLsbD_eq
  intro i hi
  interval_cases i <;> simp [h2, enableBit]

/-- The nibble pulse, its bytes written as the frame with and without enable (rule R101). -/
theorem nib_eq_frame (v : Byte) (m : Mode) : nib v m = [.write (frame v m + 4), .wait .en, .write (frame v m)] := by
  rw [nib, frame_set_enable, frame_clear_enable]

/-! A failed write. -/

/-- The step of a write answered `fail` (rules R101, R191). -/
theorem step_write_fail {s : State} {b : Byte} {rest : List Event} (hf : s.fsm ≠ .faulted) (hr : s.resetLine = false)
    (hs : s.seq = .write b :: rest) (ha : s.nextAnswer = .fail) : step s = .next (s.afterFailure (.write b)) := by
  rw [step_head_event hf hr hs, State.performEvent_failed hs rfl ha]

/-- Settles O29: the pulse is `nib_eq_frame`; either write of it is the head of `seq` when it fails, and `afterFailure`
leaves nothing pending. -/
theorem nibblePulse : Obligations.NibblePulse := by
  refine ⟨fun v m => ⟨nib_eq_frame v m, frame_enable_xor v m⟩, rfl, Nat.succ_pos _, ?_, ?_⟩
  · intro s v m rest hf hr hs ha
    rw [nib_eq_frame] at hs
    exact ⟨_, step_write_fail hf hr hs ha, rfl, rfl, rfl⟩
  · intro s v m rest hf hr hs ha
    exact ⟨_, step_write_fail hf hr hs ha, rfl, rfl⟩

/-! The logical byte. -/

/-- The two bytes a nibble writes, as rule R105 writes them. -/
theorem nib_writtenBytes (v : Byte) (m : Mode) :
    (nib v m).filterMap Event.writtenByte =
      [(v &&& 0xF0#8) ||| 0x0C#8 ||| rsBit m, (v &&& 0xF0#8) ||| 0x08#8 ||| rsBit m] := by
  have hset : frame v m ||| enableBit = (v &&& 0xF0#8) ||| 0x0C#8 ||| rsBit m := by
    have hbits : backlightBit ||| rsBit m ||| enableBit = 0x0C#8 ||| rsBit m := by cases m <;> rfl
    rw [frame, BitVec.or_assoc _ backlightBit, BitVec.or_assoc, hbits, BitVec.or_assoc]
  rw [nib, hset, frame_clear_enable]
  rfl

/-- The four bytes a logical byte writes, high nibble first (rules R102, R105). -/
theorem byteEvents_writtenBytes (b : Byte) (m : Mode) (k : WaitKind) :
    (nib (hi b) m ++ nib (lo b) m ++ [Event.wait k]).filterMap Event.writtenByte =
      [(b &&& 0xF0#8) ||| 0x0C#8 ||| rsBit m, (b &&& 0xF0#8) ||| 0x08#8 ||| rsBit m,
       ((b <<< 4) &&& 0xF0#8) ||| 0x0C#8 ||| rsBit m, ((b <<< 4) &&& 0xF0#8) ||| 0x08#8 ||| rsBit m] := by
  have hnib (v : Byte) : nib (v &&& 0xF0#8) m = nib v m := by rw [nib, frame_highNibble, nib]
  rw [hi, lo, hnib, hnib, List.filterMap_append, List.filterMap_append, nib_writtenBytes, nib_writtenBytes]
  rfl

/-- Settles O30: `byteEvents_writtenBytes` in each mode; RS adds nothing in command mode. -/
theorem logicalByteWrites : Obligations.LogicalByteWrites := by
  refine ⟨fun b => ⟨hi_toNat b, lo_toNat b⟩, fun b => ?_, fun b => byteEvents_writtenBytes b .data .data⟩
  have hcmd : (cmdEvents b).filterMap Event.writtenByte = _ := byteEvents_writtenBytes b .command .cmd
  simpa only [rsBit, BitVec.ofNat_eq_ofNat, BitVec.or_zero] using hcmd

/-- Settles O31: both are `byteEvents_eq_logicalByte`. -/
theorem commandAndDataBytes : Obligations.CommandAndDataBytes :=
  fun b => ⟨cmdEvents_eq_logicalByte b, byteEvents_eq_logicalByte b .data .data, rfl, rfl⟩

end Sys2Proof.Machine
end

section
/-! What READY says of the trace (rule R129): each effect of a step keeps it, so does the world outside, and with them
every run without reset. -/

namespace Sys2Proof.Machine

/-- Without reset the trace only grows (rule R65). -/
theorem StepEffect.trace_grows {s t : State} (heff : StepEffect s t) (hr : s.resetLine = false) :
    s.trace <+: t.trace := by
  cases heff with
  | reset hreset => simp [hr] at hreset
  | hold | refused | begun | loaded => exact ⟨[], List.append_nil _⟩
  | done | failed => exact ⟨[_], rfl⟩

/-- No step writes the parameter, reset included (rule R5; log 4). -/
theorem StepEffect.probeAtBegin_eq {s t : State} (heff : StepEffect s t) : t.probeAtBegin = s.probeAtBegin := by
  cases heff with
  | reset _ =>
    obtain ⟨n, tr, heq, -⟩ := s.takeReset_cases
    rw [heq]
  | hold | done | failed | refused | begun | loaded => rfl

/-- An event of the initialization that did not fail moves from the pending events into the trace; the last one makes the
sequence in the trace whole (rules R56, R127). -/
theorem State.HistorySince.initEvent {base : List Traced} {s : State} (h : s.HistorySince base)
    (hf : s.fsm = .initializing) {e : Event} {rest : List Event} (hs : s.seq = e :: rest) (more : List Answer) :
    (s.afterEvents [e] rest more).HistorySince base := by
  obtain ⟨before, done, hseq, htrace⟩ := h.whileInitializing hf
  have hseq' : initSeq s.probeAtBegin = done ++ [e] ++ rest := by simp [hseq, hs]
  have htrace' : s.trace ++ [tracedOk e] = base ++ before ++ (done ++ [e]).map tracedOk := by simp [htrace]
  constructor
  case whileInitializing => exact fun _ => ⟨before, done ++ [e], hseq', htrace'⟩
  case whileReady =>
    intro hready
    have hrest : rest = [] := by
      by_contra hrest
      rw [s.afterEvents_fsm_busy [e] hrest more, hf] at hready
      cases hready
    have hwhole : initSeq s.probeAtBegin = done ++ [e] := by simpa [hrest] using hseq'
    rw [← hwhole, ← List.append_nil (initSeq _)] at htrace'
    exact ⟨before, [], htrace'⟩

/-- An event in READY that did not fail joins the events after the whole sequence (rules R56, R129). -/
theorem State.HistorySince.readyEvent {base : List Traced} {s : State} (h : s.HistorySince base) (hf : s.fsm = .ready)
    (hpost : s.post = .ready) (e : Event) (rest : List Event) (more : List Answer) :
    (s.afterEvents [e] rest more).HistorySince base := by
  obtain ⟨before, later, htrace⟩ := h.whileReady hf
  have hready : (s.afterEvents [e] rest more).fsm = .ready := by simp [State.afterEvents, hf, hpost]
  have htrace' : s.trace ++ [tracedOk e]
      = base ++ before ++ (initSeq s.probeAtBegin ++ (later ++ [e])).map tracedOk := by simp [htrace]
  constructor
  case whileInitializing =>
    intro hi
    rw [hready] at hi
    cases hi
  case whileReady => exact fun _ => ⟨before, later ++ [e], htrace'⟩

/-- Every event that did not fail keeps what INITIALIZING and READY say of the trace. -/
theorem State.HistorySince.afterEvents {base : List Traced} {s : State} (h : s.HistorySince base) (hi : s.Inv)
    {e : Event} {rest : List Event} (hs : s.seq = e :: rest) (more : List Answer) :
    (s.afterEvents [e] rest more).HistorySince base := by
  obtain hf | hf := hi.fsm_of_busy (by simp [hs])
  · exact h.initEvent hf hs more
  · exact h.readyEvent hf (hi.readyPost hf) e rest more

/-- An accepted BEGIN starts its sequence after whatever the trace holds (rules R120, R128). -/
theorem beginAccepted_historySince {base : List Traced} {s : State} (hbase : base <+: s.trace) (c r : Byte) :
    (beginAccepted c r s).HistorySince base := by
  obtain ⟨before, htrace⟩ := hbase
  constructor
  case whileInitializing => exact fun _ => ⟨before, [], rfl, by simpa [beginAccepted_eq] using htrace.symm⟩
  case whileReady => exact nofun

/-- Each effect of a step without reset keeps what INITIALIZING and READY say of the trace (rule R129). -/
theorem StepEffect.historySince {base : List Traced} {s t : State} (heff : StepEffect s t) (hi : s.Inv)
    (hr : s.resetLine = false) (h : s.HistorySince base) (hbase : base <+: s.trace) : t.HistorySince base := by
  cases heff with
  | reset hreset => simp [hr] at hreset
  | hold _ _ => exact h
  | done more _ _ hs _ => exact h.afterEvents hi hs more
  | failed => exact ⟨nofun, nofun⟩
  | refused => exact { h with }
  | @begun w ws c r => exact beginAccepted_historySince (s := { s with requests := ws }) hbase c r
  | loaded _ _ hf _ _ =>
    constructor
    case whileInitializing => exact fun hinit => by simp [hf] at hinit
    case whileReady => exact h.whileReady

/-- Settles O53: each effect of a step keeps the history, and the trace only grows. -/
theorem stepKeepsHistory : Obligations.StepKeepsHistory := by
  intro base s t hi hr h hbase hstep
  have heff := step_effect hi.latchEmpty hstep
  exact ⟨heff.historySince hi hr h hbase, hbase.trans (heff.trace_grows hr)⟩

/-- The world outside keeps the invariant: it presents requests and lines up answers (rules R54, R81). -/
theorem EnvMove.inv {s t : State} (hmove : EnvMove s t) (h : s.Inv) : t.Inv := by
  cases hmove with
  | present | answer => exact { h with }

/-- What INITIALIZING and READY say of the trace does not look at what the world outside moves. -/
theorem EnvMove.historySince {base : List Traced} {s t : State} (hmove : EnvMove s t) (h : s.HistorySince base) :
    t.HistorySince base := by
  cases hmove with
  | present | answer => exact { h with }

/-- The world outside writes neither the trace nor the parameter. -/
theorem EnvMove.frame {s t : State} (hmove : EnvMove s t) : t.trace = s.trace ∧ t.probeAtBegin = s.probeAtBegin := by
  cases hmove with
  | present | answer => exact ⟨rfl, rfl⟩

/-- A run without reset keeps the invariant and the history since a trace that it extends, and does not write the
parameter (rule R129). -/
theorem QuietRun.historySince {base : List Traced} {s t : State} (hrun : QuietRun s t) (hi : s.Inv)
    (h : s.HistorySince base) (hbase : base <+: s.trace) :
    t.Inv ∧ t.HistorySince base ∧ base <+: t.trace ∧ t.probeAtBegin = s.probeAtBegin := by
  induction hrun with
  | start => exact ⟨hi, h, hbase, rfl⟩
  | @step t u _ hr hstep ih =>
    obtain ⟨hi, h, hbase, hprobe⟩ := ih
    obtain ⟨h', hbase'⟩ := stepKeepsHistory base t u hi hr h hbase hstep
    have hprobe' := (step_effect hi.latchEmpty hstep).probeAtBegin_eq
    exact ⟨stepKeepsInvariant t u hi hstep, h', hbase', hprobe'.trans hprobe⟩
  | env _ hmove ih =>
    obtain ⟨hi, h, hbase, hprobe⟩ := ih
    obtain ⟨htrace, hprobe'⟩ := hmove.frame
    exact ⟨hmove.inv hi, hmove.historySince h, htrace ▸ hbase, hprobe'.trans hprobe⟩

/-- Settles O54: an UNINIT block has no history to keep, so a run from it carries the history since its own trace. -/
theorem readyOnlyThroughInit : Obligations.ReadyOnlyThroughInit := by
  intro s t hi hu hrun hready
  have hstart : s.HistorySince s.trace := ⟨fun hf => by simp [hu] at hf, fun hf => by simp [hu] at hf⟩
  obtain ⟨-, h, -, hprobe⟩ := hrun.historySince hi hstart ⟨[], List.append_nil _⟩
  exact hprobe ▸ h.whileReady hready

end Sys2Proof.Machine
end

section
/-! BEGIN and the initialization (rules R120 to R130): the sequence in numbers, its acceptance, its three ends, and the run
to READY. -/

namespace Sys2Proof.Machine

/-! The sequence. -/

/-- The transport answers each of the 28 writes, and the probe where there is one (rules R54, R126). -/
theorem initSeq_busCount (p : Bool) : busCount (initSeq p) = if p then 29 else 28 := by cases p <;> rfl

/-- BEGIN accepted loads the sequence (rules R120, R125). -/
theorem exec_begin_accepted_seq {c r : Byte} {s t : State} (hf : s.fsm = .uninit ∨ s.fsm = .ready) (hs : s.seq = [])
    (hg : geometryLegal c r = true) (h : exec (.beginInit c r) s = .next t) : t.seq = initSeq s.probeAtBegin := by
  rw [exec_begin_accepted hf hs hg] at h
  cases h
  rfl

/-- Settles O13: with the probe and without, the sequence is evaluated; BEGIN loads it by `exec_begin_accepted_seq`. -/
theorem initSequenceEvents : Obligations.InitSequenceEvents := by
  refine ⟨?events, ?bytes, initSeq_length true, initSeq_length false, ?waits, rfl, rfl, rfl, rfl, rfl,
    fun s t c r hs hf hg => exec_begin_accepted_seq hf hs hg⟩
  case events | bytes | waits => rintro (_ | _) <;> rfl

/-! Acceptance. -/

/-- STATUS shows state 1 and BUSY after an accepted BEGIN (rules R21, R29, R31). -/
theorem beginAccepted_status (c r : Byte) (s : State) :
    (beginAccepted c r s).status.extractLsb' 0 2 = 1 ∧ (beginAccepted c r s).status.getLsbD 2 = true := by
  rw [State.status_state, State.status_busy, State.busy_iff]
  exact ⟨rfl, initSeq_ne_nil _⟩

/-- Settles O12: the two rows of rule R82 for BEGIN, holding, a failed bus event, and the sequence that no operand
changes. -/
theorem beginAcceptance : Obligations.BeginAccepted := by
  refine ⟨?_, ?_, ?_, ?_⟩
  · intro s c r hs hf
    rw [← geometryLegal_iff]
    constructor
    · intro hg
      exact ⟨_, exec_begin_accepted hf hs hg, rfl, beginAccepted_status c r s⟩
    · intro hg
      exact exec_begin_refused hf hs (by simpa using hg)
  · intro s c r hp
    exact exec_held rfl hp
  · intro s e rest hf hr hs hbus ha
    rw [step_head_event (by simp [hf]) hr hs, State.performEvent_failed hs hbus ha]
    exact ⟨_, rfl, rfl, rfl, rfl, rfl⟩
  · intro s c r c' r' t t' hs hf hg hg' h h'
    rw [exec_begin_accepted_seq hf hs hg h, exec_begin_accepted_seq hf hs hg' h']

/-! How the initialization ends. -/

/-- Settles O14: the sequence is empty after its last event, so `post` is in `fsm`. -/
theorem initCompletesToReady : Obligations.InitCompletesToReady := by
  intro s e hf hpost hr hs ha
  have hlive : s.fsm ≠ .faulted := by simp [hf]
  obtain ⟨more, heq⟩ := State.performEvent_done hs hlive ha
  have hready : (s.afterEvents [e] [] more).fsm = .ready := hpost
  have hport : (s.afterEvents [e] [] more).portReady = true := (State.portReady_iff _).mpr ⟨rfl, by simp [hready]⟩
  exact ⟨_, heq ▸ step_head_event hlive hr hs, hready, hport, rfl⟩

/-- Settles O16: the two outcomes of the head event, and whether it was the last one. -/
theorem initIsNotCancelled : Obligations.InitIsNotCancelled := by
  intro s h hf hr
  have hlive : s.fsm ≠ .faulted := by simp [hf]
  obtain ⟨hne, hpost⟩ := h.initializingBusy hf
  obtain ⟨e, rest, hs⟩ := List.exists_cons_of_ne_nil hne
  have hstep := step_head_event hlive hr hs
  obtain ⟨-, more, heq⟩ | ⟨hbus, ha, heq⟩ := State.performEvent_outcome hs hlive
  · rw [heq] at hstep
    refine ⟨e, rest, _, hs, hstep, rfl, rfl, rfl, ?_⟩
    by_cases hrest : rest = []
    · subst hrest
      exact .inr (.inl ⟨hpost, rfl, rfl⟩)
    · exact .inl ⟨(s.afterEvents_fsm_busy [e] hrest more).trans hf, rfl, hrest⟩
  · rw [heq] at hstep
    exact ⟨e, rest, _, hs, hstep, rfl, rfl, rfl, .inr (.inr ⟨rfl, rfl, hbus, ha⟩)⟩

/-- Settles O15: READY's row of rule R82 for BEGIN, then the three ends that `initIsNotCancelled` allows. -/
theorem reinitializationFromReady : Obligations.ReinitializationFromReady := by
  constructor
  · intro s c r hf hs hg
    exact ⟨_, exec_begin_accepted (.inr hf) hs hg, rfl, rfl, rfl, rfl, rfl, rfl⟩
  · intro s t h hf hr hstep
    obtain ⟨e, rest, u, -, hu, -, -, hreq, hend⟩ := initIsNotCancelled s h hf hr
    obtain rfl : t = u := Host.Outcome.next.inj (hstep.symm.trans hu)
    refine ⟨?_, hreq⟩
    obtain ⟨ht, -⟩ | ⟨ht, -⟩ | ⟨ht, -⟩ := hend <;> simp [ht]

/-! The run to READY. -/

/-- A legal BEGIN presented to a block that takes requests is accepted by its step (rules R72, R81, R120). -/
theorem step_begin_accepted {s : State} {c r : Byte} {ws : List ReqWord} (hready : s.ReadyToTake)
    (hf : s.fsm = .uninit ∨ s.fsm = .ready) (hg : geometryLegal c r = true)
    (hq : s.requests = (0x10000000#32 ||| c.setWidth 32 <<< 8 ||| r.setWidth 32) :: ws) :
    step s = .next (beginAccepted c r { s with requests := ws }) := by
  have ⟨_, _, hs, _⟩ := hready
  have hw : decodeRequest (0x10000000#32 ||| c.setWidth 32 <<< 8 ||| r.setWidth 32) = .ok (.beginInit c r) :=
    (decodeRequest_eq_ok_iff _ _).mpr ⟨rfl, rfl⟩
  rw [step_readyToTake_ok hready hq hw]
  exact exec_begin_accepted hf hs hg

/-- Settles O17: one step takes BEGIN, and `runSteps_events_ok` performs its whole sequence. -/
theorem beginReachesReady : Obligations.BeginReachesReady := by
  intro s c r ws more hready hf hg hq ha
  have ⟨hr, _⟩ := hready
  have hsteps : (if s.probeAtBegin then 53 else 52) = (initSeq s.probeAtBegin).length + 1 := by
    rw [initSeq_length]
    split <;> rfl
  rw [← initSeq_busCount] at ha
  rw [hsteps, runSteps, step_begin_accepted hready hf hg hq]
  have hrun := runSteps_events_ok (initSeq s.probeAtBegin) [] more (beginAccepted c r { s with requests := ws })
    (List.append_nil _).symm (initSeq_ne_nil _) nofun hr ha
  exact ⟨_, hrun, rfl, rfl, rfl, rfl, rfl, rfl, rfl⟩

end Sys2Proof.Machine
end

section
/-! The Ready-state requests (rules R140 to R152): what each loads, and what STATUS shows then. -/

namespace Sys2Proof.Machine

/-! What each loads. -/

/-- A Ready-state request that reads no state loads its expansion in READY (rules R82, R140). -/
theorem acceptReady_ready {es : List Event} {s : State} (hf : s.fsm = .ready) (hs : s.seq = []) :
    acceptReady es s = .next (s.load .ready es) :=
  acceptRequest_ready _ _ hf hs

theorem dataEvents_eq_logicalByte (b : Byte) : dataEvents b = logicalByte b.toNat 1 .data :=
  byteEvents_eq_logicalByte b .data .data

/-- Settles O19. -/
theorem clearAndHomeSendTheirCommands : Obligations.ClearAndHomeSendTheirCommands :=
  fun _ hf hs => ⟨acceptReady_ready hf hs, acceptReady_ready hf hs⟩

/-- Settles O21. -/
theorem putCharSendsItsByte : Obligations.PutCharSendsItsByte := by
  intro s b hf hs
  rw [← dataEvents_eq_logicalByte]
  exact acceptReady_ready hf hs

/-- Settles O22: a wait takes no answer, and it is the last event, so `post` is written over the same `fsm`. -/
theorem stringEndOnlyWaits : Obligations.StringEndOnlyWaits := by
  refine ⟨fun s hf hs => acceptReady_ready hf hs, rfl, ?_⟩
  intro s hf hpost hr hs
  have hlive : s.fsm ≠ .faulted := by simp [hf]
  rw [step_head_event hlive hr hs, State.performEvent_wait hs hlive, if_pos rfl, hpost, ← hf]

theorem State.HoldsGeometry.legal {s : State} {c r : Byte} (hg : s.HoldsGeometry c r) : geometryLegal c r = true := by
  obtain ⟨-, -, hbounds⟩ := hg
  exact (geometryLegal_iff c r).mpr hbounds

/-- The calculator reads the geometry that the register holds (rule R22). -/
theorem State.HoldsGeometry.geometry {s : State} {c r : Byte} (hg : s.HoldsGeometry c r) : s.geometry = some (c, r) := by
  have ⟨hc, hr, _⟩ := hg
  exact (s.geometry_eq_some c r).mpr ⟨hc, hr, hg.legal⟩

theorem loadSetCursor_holds {col row c r : Byte} {s : State} (hg : s.geometry = some (c, r)) :
    loadSetCursor col row s = .next (s.load .ready (setCursorEvents col row c r)) := by
  rw [loadSetCursor, hg]
  rfl

/-- SET_CURSOR accepted read a geometry (rules R22, R144). -/
theorem loadSetCursor_next {col row : Byte} {s t : State} (h : loadSetCursor col row s = .next t) :
    ∃ c r, s.geometry = some (c, r) ∧ t = s.load .ready (setCursorEvents col row c r) := by
  rcases hg : s.geometry with _ | ⟨c, r⟩
  · rw [loadSetCursor, hg] at h
    cases h
  · rw [loadSetCursor_holds hg] at h
    cases h
    exact ⟨c, r, rfl, rfl⟩

/-- SET_CURSOR in READY (rules R82, R144). -/
theorem exec_setCursor_ready {col row c r : Byte} {s : State} (hf : s.fsm = .ready) (hs : s.seq = [])
    (hg : s.geometry = some (c, r)) :
    exec (.setCursor col row) s = .next (s.load .ready (setCursorEvents col row c r)) :=
  (acceptRequest_ready _ _ hf hs).trans (loadSetCursor_holds hg)

/-! Acceptance, refusal, holding. -/

/-- STATUS shows state 2 and BUSY after an accepted Ready-state request (rules R31, R140). -/
theorem load_status {s : State} {es : List Event} (hf : s.fsm = .ready) (hes : es ≠ []) :
    (s.load .ready es).status.extractLsb' 0 2 = 2 ∧ (s.load .ready es).status.getLsbD 2 = true := by
  rw [State.status_state, State.status_busy, State.busy_iff, State.load_fsm, hf]
  exact ⟨rfl, hes⟩

/-- Settles O18: the rows of rule R82's table for the Ready-state requests, with what STATUS shows. -/
theorem readyRequestAcceptance : Obligations.ReadyRequestAcceptance := by
  constructor
  · intro s h hf
    obtain ⟨c, r, hc, hr, hg⟩ := h.geometryHeld (by simp [hf])
    exact ⟨c, r, hc, hr, (geometryLegal_iff c r).mp hg⟩
  · intro s i hi hb
    refine ⟨?_, fun hu hs => exec_uninit_refused hi hb hu hs, ?_⟩
    · intro hf hs c r hg
      obtain ⟨es, hes, hx⟩ := exec_ready_accepted hi hb hf hs hg
      exact ⟨es, _, hes.nonempty, hx, rfl, load_status hf hes.nonempty⟩
    · intro hbusy
      have hp : s.portReady = false := by
        rw [← Bool.not_eq_true, s.portReady_iff]
        tauto
      exact exec_held hi hp

/-! How many events each loads. -/

theorem acceptReady_ready_seq {es : List Event} {s t : State} (hf : s.fsm = .ready) (hs : s.seq = [])
    (h : acceptReady es s = .next t) : t.seq = es := by
  rw [acceptReady_ready hf hs] at h
  cases h
  rfl

/-- Settles O46: a logical byte's expansion has its events whatever the byte, and STRING_END's and BEGIN's are fixed. -/
theorem eventCounts : Obligations.EventCounts := by
  constructor
  · intro i s t hf hs hx
    cases i with
    | clear | home | putChar b =>
      rw [acceptReady_ready_seq hf hs hx]
      exact ⟨rfl, rfl, rfl⟩
    | stringEnd =>
      rw [acceptReady_ready_seq hf hs hx]
      exact ⟨rfl, rfl⟩
    | setCursor col row =>
      obtain ⟨c, r, -, rfl⟩ := loadSetCursor_next ((acceptRequest_ready _ _ hf hs).symm.trans hx)
      exact ⟨rfl, rfl, rfl⟩
    | _ => trivial
  · intro s t c r hs hf hg hx
    rw [exec_begin_accepted_seq hf hs hg hx, initSeq_length]

end Sys2Proof.Machine
end

section
/-! The DDRAM address calculator in numbers, and SET_CURSOR with it (rules R143 to R148). -/

namespace Sys2Proof.Machine

/-! Saturation. -/

theorem clampTo_lt {v bound : Byte} (hb : 1 ≤ bound.toNat) : clampTo v bound < bound.toNat := by
  rw [clampTo]
  omega

theorem clampTo_of_lt {v bound : Byte} (h : v.toNat < bound.toNat) : clampTo v bound = v.toNat := by
  rw [clampTo]
  omega

theorem clampTo_of_last_le {v bound : Byte} (h : bound.toNat - 1 ≤ v.toNat) : clampTo v bound = bound.toNat - 1 :=
  min_eq_right h

/-- A clamped coordinate is a byte, and clamping it again changes nothing (rule R145). -/
theorem clampTo_clampTo (v bound : Byte) : clampTo (BitVec.ofNat 8 (clampTo v bound)) bound = clampTo v bound := by
  have hbyte : clampTo v bound < 2 ^ 8 := (min_le_left _ _).trans_lt v.isLt
  rw [clampTo, BitVec.toNat_ofNat, Nat.mod_eq_of_lt hbyte, clampTo]
  omega

/-- The calculator reads its coordinates clamped, and nothing else of them (rule R143). -/
theorem ddramAddr_congr {col row col' row' c r : Byte} (hcol : clampTo col c = clampTo col' c)
    (hrow : clampTo row r = clampTo row' r) : ddramAddr col row c r = ddramAddr col' row' c r := by
  rw [ddramAddr, hcol, hrow, ddramAddr]

/-! The address. -/

/-- The row's base address (rule R24). -/
def rowBase (index : Nat) : Nat := [0x00, 0x40, 0x14, 0x54].getD index 0

theorem rowOffset_toNat {n : Nat} (h : n < 4) : (rowOffset (BitVec.ofNat 2 n)).toNat = rowBase n := by
  interval_cases n <;> rfl

theorem rowBase_le (n : Nat) : rowBase n ≤ 0x54 := by
  obtain h | h := lt_or_ge n 4
  · interval_cases n <;> decide
  · simp [rowBase, h]

/-- Rule R143: the base of the clamped row plus the clamped column; a legal geometry keeps the sum below 128, so nothing
wraps (rule R146). -/
theorem ddramAddr_toNat (col row : Byte) {c r : Byte} (hg : geometryLegal c r = true) :
    (ddramAddr col row c r).toNat = rowBase (clampTo row r) + clampTo col c := by
  obtain ⟨hc, hc40, hr, hr4⟩ := (geometryLegal_iff c r).mp hg
  have hrow : clampTo row r < 4 := (clampTo_lt hr).trans_le hr4
  have hcol : clampTo col c < 40 := (clampTo_lt hc).trans_le hc40
  have hbase := rowBase_le (clampTo row r)
  rw [ddramAddr, BitVec.toNat_add, rowOffset_toNat hrow, BitVec.toNat_ofNat]
  omega

theorem addressNumber_eq (col row c r : Byte) :
    addressNumber col.toNat row.toNat c.toNat r.toNat = (rowBase (clampTo row r) + clampTo col c) % 128 := rfl

/-- Rule R143 in the numbers of the statements. -/
theorem ddramAddr_eq_addressNumber (col row : Byte) {c r : Byte} (hg : geometryLegal c r = true) :
    (ddramAddr col row c r).toNat = addressNumber col.toNat row.toNat c.toNat r.toNat := by
  rw [addressNumber_eq, ← ddramAddr_toNat col row hg, Nat.mod_eq_of_lt (ddramAddr col row c r).isLt]

/-- Settles O23. -/
theorem ddramAddressFormula : Obligations.DdramAddressFormula :=
  ⟨fun col row _ _ => ddramAddr_eq_addressNumber col row, setDdramByte_toNat⟩

/-- Settles O20: a command byte in numbers, of the byte and the address in numbers. -/
theorem setCursorSendsTheAddress : Obligations.SetCursorSendsTheAddress := by
  intro s col row c r hf hs hg
  rw [exec_setCursor_ready hf hs hg.geometry, setCursorEvents, cmdEvents_eq_logicalByte, setDdramByte_toNat,
    ddramAddr_eq_addressNumber col row hg.legal]
  rfl

/-! The address ranges. -/

/-- Rule R146: the largest address is the last column of row 3. -/
theorem ddramAddr_le (col row : Byte) {c r : Byte} (hg : geometryLegal c r = true) :
    (ddramAddr col row c r).toNat ≤ 0x7B := by
  obtain ⟨hc, hc40, -, -⟩ := (geometryLegal_iff c r).mp hg
  have hcol : clampTo col c < 40 := (clampTo_lt hc).trans_le hc40
  have hbase := rowBase_le (clampTo row r)
  rw [ddramAddr_toNat col row hg]
  omega

/-- The range of a row on the largest display (rule R146). -/
theorem ddramAddr_range (col row : Byte) {n : Nat} (hrow : clampTo row 4 = n) :
    rowBase n ≤ (ddramAddr col row 40 4).toNat ∧ (ddramAddr col row 40 4).toNat ≤ rowBase n + 39 := by
  have hcol : clampTo col 40 < 40 := clampTo_lt (by decide)
  rw [ddramAddr_toNat col row (by decide), hrow]
  omega

/-- Two positions whose clamped coordinates have the same sum have the same address (rule R146). -/
theorem ddramAddr_overlap {col row col' row' c r : Byte} (hg : geometryLegal c r = true)
    (h : rowBase (clampTo row r) + clampTo col c = rowBase (clampTo row' r) + clampTo col' c) :
    ddramAddr col row c r = ddramAddr col' row' c r := by
  apply BitVec.eq_of_toNat_eq
  rw [ddramAddr_toNat col row hg, ddramAddr_toNat col' row' hg, h]

/-- Settles O25. -/
theorem addressRanges : Obligations.AddressRanges := by
  refine ⟨fun col row c r hg => ⟨ddramAddr_toNat col row hg, ddramAddr_le col row hg⟩, ?ranges, by decide, ?overlaps⟩
  case ranges =>
    intro col row
    have below {n : Nat} (hn : n < 4) (hrow : row.toNat = n) : clampTo row 4 = n :=
      (clampTo_of_lt (hrow ▸ hn)).trans hrow
    exact ⟨fun h => (ddramAddr_range col row (below (by decide) h)).2,
      fun h => ddramAddr_range col row (below (by decide) h),
      fun h => ddramAddr_range col row (below (by decide) h),
      fun h => ddramAddr_range col row (clampTo_of_last_le h)⟩
  case overlaps =>
    intro c r hg hc
    have hcol0 : clampTo 0 c = 0 := Nat.zero_min _
    have hcol : clampTo 20 c = 20 := clampTo_of_lt hc
    constructor
    · intro hr
      have hrow : clampTo 2 r = 2 := clampTo_of_lt hr
      have hrow0 : clampTo 0 r = 0 := Nat.zero_min _
      exact ddramAddr_overlap hg (by rw [hcol0, hcol, hrow, hrow0]; rfl)
    · intro hr
      have hrow : clampTo 3 r = 3 := clampTo_of_lt (by rw [hr]; decide)
      have hrow1 : clampTo 1 r = 1 := clampTo_of_lt (by rw [hr]; decide)
      exact ddramAddr_overlap hg (by rw [hcol0, hcol, hrow, hrow1]; rfl)

/-! SET_CURSOR at and past the last coordinates. -/

/-- The bits of STATUS above BUSY are FATAL, the cause and the fault byte (rule R31). -/
theorem State.status_aboveBusy_congr {s t : State} (hfsm : t.fsm = s.fsm) (hcause : t.faultCause = s.faultCause)
    (hbyte : t.faultByte = s.faultByte) : t.status.extractLsb' 3 13 = s.status.extractLsb' 3 13 := by
  apply BitVec.eq_of_getLsbD_eq
  intro i hi
  interval_cases i <;> simp [State.status, State.fatal, hfsm, hcause, hbyte]

/-- Settles O24: each coordinate is read clamped, and what SET_CURSOR loads is no part of STATUS above BUSY. -/
theorem clampSaturates : Obligations.ClampSaturates := by
  refine ⟨?saturates, ?rowIndex, ?independent, ?silent⟩
  case saturates =>
    intro v bound hb
    exact ⟨clampTo_lt hb, clampTo_of_lt, fun h => clampTo_of_last_le (by omega)⟩
  case rowIndex =>
    intro row r hr hr4
    exact Nat.le_of_lt_succ ((clampTo_lt hr).trans_le hr4)
  case independent =>
    intro col row c r _
    exact ⟨ddramAddr_congr (clampTo_clampTo col c).symm rfl, ddramAddr_congr rfl (clampTo_clampTo row r).symm⟩
  case silent =>
    intro s col row c r hf hs hg
    exact ⟨_, exec_setCursor_ready hf hs hg.geometry, rfl, hf, State.status_aboveBusy_congr rfl rfl rfl⟩

theorem acceptRequest_congr (u : State → Result) {r r' : State → Result} {s : State} (h : r s = r' s) :
    acceptRequest u r s = acceptRequest u r' s := by
  rw [acceptRequest, h, acceptRequest]

/-- Coordinates with the same address on the geometry held are the same SET_CURSOR (rule R144). -/
theorem exec_setCursor_congr {col row col' row' c r : Byte} {s : State} (hg : s.geometry = some (c, r))
    (h : ddramAddr col row c r = ddramAddr col' row' c r) :
    exec (.setCursor col row) s = exec (.setCursor col' row') s :=
  acceptRequest_congr refuseRequest <| by
    rw [loadSetCursor_holds hg, loadSetCursor_holds hg, setCursorEvents, h, setCursorEvents]

/-- Settles O26: all of these coordinates are clamped to the last ones. -/
theorem clampIdentity : Obligations.ClampIdentity := by
  intro s col row c r hg hcol hrow
  obtain ⟨hc, -, hr, -⟩ := (geometryLegal_iff c r).mp hg.legal
  have last {bound : Byte} (hb : 1 ≤ bound.toNat) : (bound - 1).toNat = bound.toNat - 1 :=
    BitVec.toNat_sub_of_le hb
  have hlast {v w : Byte} (hv : c.toNat - 1 ≤ v.toNat) (hw : r.toNat - 1 ≤ w.toNat) :
      ddramAddr v w c r = ddramAddr (c - 1) (r - 1) c r :=
    ddramAddr_congr ((clampTo_of_last_le hv).trans (clampTo_of_last_le (last hc).ge).symm)
      ((clampTo_of_last_le hw).trans (clampTo_of_last_le (last hr).ge).symm)
  exact ⟨exec_setCursor_congr hg.geometry (hlast hcol hrow),
    exec_setCursor_congr hg.geometry (hlast (Nat.sub_le _ _) (Nat.sub_le _ _))⟩

end Sys2Proof.Machine
end

section
/-! No cursor state (rule R149): the events a meaning leaves pending depend on `fsm`, the geometry, the probe parameter and
the pending events alone. -/

namespace Sys2Proof.Machine

/-- Two states that agree on what expansions are made from (rules R22, R121, R140). -/
structure SameInputs (s s' : State) : Prop where
  fsm : s.fsm = s'.fsm
  cols : s.cols = s'.cols
  rows : s.rows = s'.rows
  probeAtBegin : s.probeAtBegin = s'.probeAtBegin
  seq : s.seq = s'.seq

theorem SameInputs.geometry {s s' : State} (h : SameInputs s s') : s.geometry = s'.geometry := by
  rw [State.geometry, h.cols, h.rows, State.geometry]

/-- A meaning that leaves the same events pending on any two states that agree so. -/
def LoadsAlike (f : State → Result) : Prop :=
  ∀ s s' t t', SameInputs s s' → f s = .next t → f s' = .next t' → t.seq = t'.seq

theorem refuseRequest_loadsAlike : LoadsAlike refuseRequest := by
  intro s s' t t' hsame h h'
  cases h
  cases h'
  exact hsame.seq

theorem loadReady_loadsAlike (es : List Event) : LoadsAlike (loadReady es) := by
  intro s s' t t' _ h h'
  cases h
  cases h'
  rfl

/-- SET_CURSOR reads the geometry alone (rule R143). -/
theorem loadSetCursor_loadsAlike (col row : Byte) : LoadsAlike (loadSetCursor col row) := by
  intro s s' t t' hsame h h'
  obtain ⟨c, r, hg, rfl⟩ := loadSetCursor_next h
  rw [loadSetCursor_holds (hsame.geometry ▸ hg)] at h'
  cases h'
  rfl

/-- BEGIN reads the parameter alone (rules R121, R125). -/
theorem tryBegin_loadsAlike (c r : Byte) : LoadsAlike (tryBegin c r) := by
  intro s s' t t' hsame h h'
  unfold tryBegin at h h'
  split at h
  next hg =>
    rw [if_pos hg] at h'
    cases h
    cases h'
    exact congrArg initSeq hsame.probeAtBegin
  next hg =>
    rw [if_neg hg] at h'
    exact refuseRequest_loadsAlike s s' t t' hsame h h'

/-- Admission reads `fsm` and the pending events (rules R81, R82). -/
theorem acceptRequest_loadsAlike {inUninit inReady : State → Result} (hu : LoadsAlike inUninit)
    (hr : LoadsAlike inReady) : LoadsAlike (acceptRequest inUninit inReady) := by
  intro s s' t t' hsame h h'
  obtain ⟨hp, rfl⟩ | ⟨hs, hf, h⟩ | ⟨hs, hf, h⟩ := acceptRequest_next h
  · have hp' : s'.portReady = false := by
      rw [← hp, State.portReady, State.portReady, State.fatal, State.fatal, hsame.fsm, hsame.seq]
    rw [acceptRequest_held _ _ hp'] at h'
    cases h'
    exact hsame.seq
  · rw [acceptRequest_uninit _ _ (hsame.fsm ▸ hf) (hsame.seq ▸ hs)] at h'
    exact hu s s' t t' hsame h h'
  · rw [acceptRequest_ready _ _ (hsame.fsm ▸ hf) (hsame.seq ▸ hs)] at h'
    exact hr s s' t t' hsame h h'

theorem acceptReady_loadsAlike (es : List Event) : LoadsAlike (acceptReady es) :=
  acceptRequest_loadsAlike refuseRequest_loadsAlike (loadReady_loadsAlike es)

/-- An emitted command appends its own events, but in FAULTED (log 9). -/
theorem sendEvents_loadsAlike (es : List Event) : LoadsAlike (sendEvents es) := by
  intro s s' t t' hsame h h'
  obtain ⟨hf, rfl⟩ | ⟨hf, rfl⟩ := sendEvents_next h
  · rw [sendEvents_faulted (hsame.fsm ▸ hf)] at h'
    cases h'
    exact hsame.seq
  · rw [sendEvents_live (hsame.fsm ▸ hf)] at h'
    cases h'
    exact congrArg (· ++ es) hsame.seq

/-- No instruction's events depend on what was sent before (rule R149). -/
theorem exec_loadsAlike (i : Instr) : LoadsAlike (exec i) := by
  cases i with
  | beginInit c r => exact acceptRequest_loadsAlike (tryBegin_loadsAlike c r) (tryBegin_loadsAlike c r)
  | setCursor col row => exact acceptRequest_loadsAlike refuseRequest_loadsAlike (loadSetCursor_loadsAlike col row)
  | clear | home | putChar _ | stringEnd => exact acceptReady_loadsAlike _
  | _ => exact sendEvents_loadsAlike _

/-- Settles O27: in READY, SET_CURSOR is held or loads its events; `exec_loadsAlike` is the second part. -/
theorem noCursorState : Obligations.NoCursorState := by
  constructor
  · intro s t col row hf hx
    obtain ⟨-, rfl⟩ | ⟨-, hu, -⟩ | ⟨-, -, h⟩ := acceptRequest_next hx
    · rfl
    · cases hu.symm.trans hf
    · obtain ⟨c, r, -, rfl⟩ := loadSetCursor_next h
      rfl
  · intro i s s' t t' hfsm hcols hrows hprobe hseq
    exact exec_loadsAlike i s s' t t' ⟨hfsm, hcols, hrows, hprobe, hseq⟩

end Sys2Proof.Machine
end

section
/-! The run of one Ready-state request after another, and of a string (rules R140, R150 to R152, R170). -/

namespace Sys2Proof.Machine

/-! One request. -/

/-- `s` where a Ready-state request was taken and all of its expansion `es` performed, with the words `ws` still presented
and the answers `more` still lined up. -/
def State.afterRequest (s : State) (es : List Event) (ws : List ReqWord) (more : List Answer) : State :=
  (({ s with requests := ws } : State).load .ready es).afterEvents es [] more

/-- A block that took requests does so again after a Ready-state request (rules R81, R140). -/
theorem State.ReadyToTake.afterRequest {s : State} (hready : s.ReadyToTake) (es : List Event) (ws : List ReqWord)
    (more : List Answer) : (s.afterRequest es ws more).ReadyToTake := by
  obtain ⟨hr, hc, -, -⟩ := hready
  exact ⟨hr, hc, rfl, nofun⟩

/-- Steps that reach a state are followed by the steps from that state. -/
theorem runSteps_add {m : Nat} {s t : State} (h : runSteps m s = .next t) (n : Nat) :
    runSteps (m + n) s = runSteps n t := by
  induction m generalizing s with
  | zero =>
    cases h
    rw [Nat.zero_add]
  | succ m ih =>
    rw [Nat.succ_add, runSteps]
    rw [runSteps] at h
    cases hstep : step s with
    | next u =>
      rw [hstep] at h
      exact ih h
    | fault r =>
      rw [hstep] at h
      cases h
    | refused r =>
      rw [hstep] at h
      cases h

/-- One step takes a Ready-state request, and one step performs each of its events (rules R56, R81, R140). -/
theorem runSteps_request {s : State} {i : Instr} {w : ReqWord} {ws : List ReqWord} {es : List Event}
    {more : List Answer} (hready : s.ReadyToTake) (hf : s.fsm = .ready) (hq : s.requests = w :: ws)
    (hw : decodeRequest w = .ok i) (hx : exec i = acceptReady es) (hes : es ≠ [])
    (ha : s.answers = List.replicate (busCount es) .ok ++ more) :
    runSteps (es.length + 1) s = .next (s.afterRequest es ws more) := by
  have ⟨hr, _, hs, _⟩ := hready
  have htake : step s = .next (({ s with requests := ws } : State).load .ready es) := by
    rw [step_readyToTake_ok hready hq hw, hx]
    exact acceptReady_ready hf hs
  rw [runSteps, htake]
  have hlive : s.fsm ≠ .faulted := by simp [hf]
  exact runSteps_events_ok es [] more _ (List.append_nil es).symm hes hlive hr ha

/-! A string. -/

theorem sendString_requests_cons (c : Byte) (t : Text) :
    (sendString (c :: t)).filterMap requestWord
      = (0x50000000#32 ||| c.setWidth 32) :: (sendString t).filterMap requestWord := rfl

/-- Settles O58, by induction on the text: PUT_CHAR takes the head of the words and four answers, STRING_END one word and
no answer. -/
theorem sendStringTransmitsInOrder : Obligations.SendStringTransmitsInOrder := by
  intro t
  induction t with
  | nil =>
    intro s ws more hready hf hq ha
    have hrun : runSteps 2 s = .next (s.afterRequest [.wait .str] ws more) :=
      runSteps_request (i := .stringEnd) hready hf hq rfl rfl (by simp) ha
    exact ⟨_, hrun, rfl, rfl, rfl, rfl, rfl, rfl⟩
  | cons c t ih =>
    intro s ws more hready hf hq ha
    rw [sendString_requests_cons, List.cons_append] at hq
    have ha' : s.answers = List.replicate 4 .ok ++ (List.replicate (4 * t.length) .ok ++ more) := by
      rw [ha, ← List.append_assoc, ← List.replicate_add, List.length_cons]
      congr 2
      omega
    have hw : decodeRequest (0x50000000#32 ||| c.setWidth 32) = .ok (.putChar c) :=
      (decodeRequest_eq_ok_iff _ _).mpr ⟨rfl, rfl⟩
    have hrun : runSteps 8 s = .next (s.afterRequest (dataEvents c) _ _) :=
      runSteps_request hready hf hq hw rfl (dataEvents_plain c).nonempty ha'
    obtain ⟨u, hu, hfsm, hseq, hreq, hans, hmark, htrace⟩ :=
      ih _ ws more (hready.afterRequest (dataEvents c) _ _) rfl rfl rfl
    have hsteps : 8 * (c :: t).length + 2 = 8 + (8 * t.length + 2) := by
      rw [List.length_cons]
      omega
    have hsent : s.trace ++ (dataEvents c).map tracedOk ++ (t.flatMap dataEvents ++ [Event.wait .str]).map tracedOk
        = s.trace ++ ((c :: t).flatMap dataEvents ++ [Event.wait .str]).map tracedOk := by
      simp
    exact ⟨u, by rw [hsteps, runSteps_add hrun, hu], hfsm, hseq, hreq, hans, hmark, htrace.trans hsent⟩

end Sys2Proof.Machine
end

section
/-! The line of PRINT_LINE: the text's first characters, then spaces, up to the width (rules R172, R173). -/

namespace Sys2Proof.Machine

@[simp] theorem length_fitLine (width : Nat) (t : Text) : (fitLine width t).length = width := by
  simp [fitLine]

/-- A line begins with the text, cut at the width. -/
theorem take_fitLine (width : Nat) (t : Text) : (fitLine width t).take (min width t.length) = t.take width :=
  List.take_left' List.length_take

/-- Behind the text, a line is padding alone. -/
theorem drop_fitLine (width : Nat) (t : Text) :
    (fitLine width t).drop (min width t.length) = List.replicate (width - min width t.length) spaceByte :=
  List.drop_left' List.length_take

/-- Text beyond the width is not read (rule R173). -/
theorem fitLine_take (width : Nat) (t : Text) : fitLine width (t.take width) = fitLine width t := by
  simp [fitLine]

/-- Settles O59: the line is `fitLine`. -/
theorem printLineFillsTheWidth : Obligations.PrintLineFillsTheWidth := by
  intro width row t
  refine ⟨⟨fitLine width t, rfl, length_fitLine width t, take_fitLine width t, ?_⟩, ?_⟩
  · intro c hc
    rw [drop_fitLine] at hc
    exact List.eq_of_mem_replicate hc
  · rw [printLine, printLine, fitLine_take]

end Sys2Proof.Machine
end

section
/-! The numerals of FMT (rule R174): `dec` by its recursion on the number, and what its digits are. -/

namespace Sys2Proof.Machine

theorem digitByte_eq_ofNat (n : Nat) : digitByte n = BitVec.ofNat 8 (0x30 + n) :=
  (BitVec.ofNat_add 0x30 n).symm

theorem toNat_digitByte {n : Nat} (h : n < 10) : (digitByte n).toNat = 0x30 + n := by
  rw [digitByte_eq_ofNat, BitVec.toNat_ofNat]
  omega

/-- Fuel beyond the number changes no digit. -/
theorem decDigits_eq_dec {fuel n : Nat} (h : n < fuel) : decDigits fuel n = dec n := by
  rw [dec]
  induction n using Nat.strongRecOn generalizing fuel with
  | ind n ih =>
    obtain ⟨fuel, rfl⟩ : ∃ k, fuel = k + 1 := ⟨fuel - 1, by omega⟩
    rw [decDigits, decDigits]
    by_cases hn : n < 10
    · rw [if_pos hn, if_pos hn]
    · rw [if_neg hn, if_neg hn, ih (n / 10) (by omega) (fuel := fuel) (by omega),
        ih (n / 10) (by omega) (fuel := n) (by omega)]

theorem dec_of_lt {n : Nat} (h : n < 10) : dec n = [digitByte n] := by
  rw [dec, decDigits, if_pos h]

theorem dec_of_ge {n : Nat} (h : 10 ≤ n) : dec n = dec (n / 10) ++ [digitByte (n % 10)] := by
  rw [dec, decDigits, if_neg (Nat.not_lt.mpr h), decDigits_eq_dec (by omega)]

/-- Induction along the digits of a numeral: a single digit, or one more digit behind those of `n / 10`. -/
theorem dec_induction {motive : Nat → Text → Prop} (single : ∀ n < 10, motive n [digitByte n])
    (snoc : ∀ n ≥ 10, motive (n / 10) (dec (n / 10)) → motive n (dec (n / 10) ++ [digitByte (n % 10)])) (n : Nat) :
    motive n (dec n) := by
  induction n using Nat.strongRecOn with
  | ind n ih =>
    obtain h | h := Nat.lt_or_ge n 10
    · rw [dec_of_lt h]
      exact single n h
    · rw [dec_of_ge h]
      exact snoc n h (ih (n / 10) (by omega))

theorem dec_ne_nil (n : Nat) : dec n ≠ [] := by
  induction n using dec_induction with
  | single => exact List.cons_ne_nil _ _
  | snoc n _ _ => exact List.append_ne_nil_of_right_ne_nil _ (List.cons_ne_nil _ _)

/-- A byte that is an ASCII decimal digit. -/
def IsDigit (c : Byte) : Prop := 0x30 ≤ c.toNat ∧ c.toNat ≤ 0x39

theorem isDigit_digitByte {n : Nat} (h : n < 10) : IsDigit (digitByte n) := by
  rw [IsDigit, toNat_digitByte h]
  omega

theorem isDigit_of_mem_dec (n : Nat) : ∀ c ∈ dec n, IsDigit c := by
  induction n using dec_induction with
  | single n h => exact List.forall_mem_singleton.mpr (isDigit_digitByte h)
  | snoc n _ ih =>
    exact List.forall_mem_append.mpr ⟨ih, List.forall_mem_singleton.mpr (isDigit_digitByte (Nat.mod_lt n (by decide)))⟩

/-- The number a decimal numeral stands for. -/
def numeralValue (t : Text) : Nat := t.foldl (fun n c => 10 * n + (c.toNat - 0x30)) 0

theorem numeralValue_append_digit (t : Text) {d : Nat} (h : d < 10) :
    numeralValue (t ++ [digitByte d]) = 10 * numeralValue t + d := by
  rw [numeralValue, List.foldl_append, ← numeralValue, List.foldl_cons, List.foldl_nil, toNat_digitByte h,
    Nat.add_sub_cancel_left]

/-- `dec` is right: its numeral stands for the number. -/
theorem numeralValue_dec (n : Nat) : numeralValue (dec n) = n := by
  induction n using dec_induction with
  | single n h => exact (numeralValue_append_digit [] h).trans (Nat.zero_add n)
  | snoc n _ ih => rw [numeralValue_append_digit _ (Nat.mod_lt n (by decide)), ih, Nat.div_add_mod]

/-- The numeral of a positive number has no leading zero. -/
theorem head?_dec_ne_zero {n : Nat} (hpos : 0 < n) : (dec n).head? ≠ some 0x30 := by
  induction n using dec_induction with
  | single n h =>
    intro hhead
    have hzero : 0x30 + n = 0x30 := (toNat_digitByte h).symm.trans (congrArg BitVec.toNat (Option.some.inj hhead))
    omega
  | snoc n h ih =>
    rw [List.head?_append_of_ne_nil _ (dec_ne_nil _)]
    exact ih (by omega)

/-- A numeral of more than one digit is that of a positive number. -/
theorem pos_of_one_lt_length_dec {n : Nat} (h : 1 < (dec n).length) : 0 < n := by
  refine Nat.pos_of_ne_zero ?_
  rintro rfl
  exact absurd h (by decide)

/-- The hundredths of `m` are those of `m % 100`. -/
theorem dec2_mod_hundred (m : Nat) :
    dec2 (m % 100) = [BitVec.ofNat 8 (0x30 + m % 100 / 10), BitVec.ofNat 8 (0x30 + m % 10)] := by
  rw [dec2, digitByte_eq_ofNat, digitByte_eq_ofNat, Nat.mod_mod_of_dvd m (by decide : 10 ∣ 100)]

/-- The tenths of `m` are a single digit. -/
theorem dec_tenths (m : Nat) : dec (m % 100 / 10) = [BitVec.ofNat 8 (0x30 + m % 100 / 10)] := by
  rw [dec_of_lt (by omega), digitByte_eq_ofNat]

/-- FMT with two decimals (rule R174). -/
theorem fmt_two (v : Int) :
    fmt v 2 = some ((if v < 0 then [0x2D] else []) ++ dec (v.natAbs / 100)
      ++ [0x2E, BitVec.ofNat 8 (0x30 + v.natAbs % 100 / 10), BitVec.ofNat 8 (0x30 + v.natAbs % 10)]) := by
  rw [fmt, if_pos rfl, dec2_mod_hundred, List.append_assoc _ (ascii ['.'])]
  rfl

/-- FMT with one decimal (rule R174). -/
theorem fmt_one (v : Int) :
    fmt v 1 = some ((if v < 0 then [0x2D] else []) ++ dec (v.natAbs / 100)
      ++ [0x2E, BitVec.ofNat 8 (0x30 + v.natAbs % 100 / 10)]) := by
  rw [fmt, if_neg (by decide), if_pos rfl, dec_tenths, List.append_assoc _ (ascii ['.'])]
  rfl

/-- FMT refuses every other precision (rule R174). -/
theorem fmt_other (v : Int) {d : Nat} (h1 : d ≠ 1) (h2 : d ≠ 2) : fmt v d = none := by
  rw [fmt, if_neg h2, if_neg h1]

/-- Settles O60: the whole part is `dec` of the hundredth part. -/
theorem fixedPointFormat : Obligations.FixedPointFormat := by
  constructor
  · intro v d
    exact fmt_other v
  · intro v
    exact ⟨dec (v.natAbs / 100), dec_ne_nil _, isDigit_of_mem_dec _,
      fun hlen => head?_dec_ne_zero (pos_of_one_lt_length_dec hlen), numeralValue_dec _, fmt_two v, fmt_one v⟩

end Sys2Proof.Machine
end

section
/-! Faults and runs: the step of a failed bus event, what a FAULTED block does until reset (rules R191, R196), the sequence
that a failure ends (rules R193, R194), and the invariant along a run (rules R201, R220). -/

namespace Sys2Proof.Machine

/-! Entry to FAULTED. -/

/-- The step of a bus event answered `fail` (rule R191). -/
theorem step_event_fail {s : State} {e : Event} {rest : List Event} (hf : s.fsm ≠ .faulted) (hr : s.resetLine = false)
    (hs : s.seq = e :: rest) (hbus : e.onBus = true) (ha : s.nextAnswer = .fail) :
    step s = .next (s.afterFailure e) := by
  rw [step_head_event hf hr hs, State.performEvent_failed hs hbus ha]

/-- No instruction, request or emitted command, does anything in FAULTED (rules R81, R191, R196). -/
theorem exec_faulted {s : State} (i : Instr) (hf : s.fsm = .faulted) : exec i s = .next s := by
  have hheld : s.portReady = false := by
    by_contra hp
    exact (s.portReady_iff.mp (by simpa using hp)).2 hf
  cases i with
  | beginInit | clear | home | setCursor | putChar | stringEnd => exact exec_held rfl hheld
  | fs8BitNibble | fs4BitNibble | cmdFunctionSet | cmdDisplayOff | cmdClear | cmdEntryMode | cmdDisplayOn | cmdHome
  | cmdSetDdram => exact sendEvents_faulted hf

/-- Settles O37: the failed event's step is `afterFailure`; in FAULTED neither a step nor an instruction does anything. -/
theorem busErrorEntry : Obligations.BusErrorEntry := by
  refine ⟨?_, fun s hf hr => step_faulted hr hf, fun s i => exec_faulted i⟩
  intro s e rest hf hr hs hbus ha
  have hhigh : (s.afterFailure e).status.getLsbD 3 = true := (State.status_fatal_iff _).mpr rfl
  have hlow : s.status.getLsbD 3 = false := by
    rw [← Bool.not_eq_true, s.status_fatal_iff]
    exact hf
  exact ⟨s.afterFailure e, step_event_fail hf hr hs hbus ha, rfl, rfl, rfl, rfl, hhigh, hlow⟩

/-- Settles O39: without reset the step of a FAULTED block is the state itself, with reset it is `takeReset`. -/
theorem faultedUntilReset : Obligations.FaultedUntilReset := by
  refine ⟨?_, fun s i => exec_faulted i, ?_⟩
  · intro s t hf hstep hleft
    cases hr : s.resetLine with
    | true =>
      obtain rfl := Host.Outcome.next.inj ((step_reset hr).symm.trans hstep)
      exact ⟨rfl, s.cutWrite.clearForReset_fsm⟩
    | false =>
      obtain rfl := Host.Outcome.next.inj ((step_faulted hr hf).symm.trans hstep)
      exact absurd hf hleft
  · intro s t hf hr hstep
    obtain rfl := Host.Outcome.next.inj ((step_faulted hr hf).symm.trans hstep)
    exact ⟨rfl, rfl, rfl⟩

/-! The sequence that a failure ends. -/

/-- A FAULTED block stays as it is for any number of steps without reset (rules R191, R194). -/
theorem runSteps_faulted {s : State} (hr : s.resetLine = false) (hf : s.fsm = .faulted) (k : Nat) :
    runSteps k s = .next s := by
  induction k with
  | zero => rfl
  | succ k ih =>
    rw [runSteps, step_faulted hr hf]
    exact ih

/-- The step of a bus event answered `fail` is the last that changes anything (rules R191, R194). -/
theorem runSteps_event_fail {s : State} {e : Event} {rest : List Event} (hf : s.fsm ≠ .faulted) (hr : s.resetLine = false)
    (hs : s.seq = e :: rest) (hbus : e.onBus = true) (ha : s.nextAnswer = .fail) (k : Nat) :
    runSteps (k + 1) s = .next (s.afterFailure e) := by
  rw [runSteps, step_event_fail hf hr hs hbus ha]
  exact runSteps_faulted (s := s.afterFailure e) hr rfl k

section
variable {s : State} {done rest : List Event} {e : Event} {more : List Answer} (hs : s.seq = done ++ e :: rest)
  (hf : s.fsm ≠ .faulted) (hr : s.resetLine = false) (ha : s.answers = List.replicate (busCount done) .ok ++ .fail :: more)
include hs hf hr ha

/-- The failure is the step after those that perform `done`, and no later step changes anything (rules R193, R194). -/
theorem runSteps_failure (hbus : e.onBus = true) (k : Nat) :
    runSteps (done.length + 1 + k) s = .next ((s.afterEvents done (e :: rest) (.fail :: more)).afterFailure e) := by
  have hdone := runSteps_events_ok done (e :: rest) (.fail :: more) s hs (by simp [hs]) hf hr ha
  have hlive : (s.afterEvents done (e :: rest) (.fail :: more)).fsm ≠ .faulted := hf
  rw [Nat.add_assoc, Nat.add_comm 1 k, runSteps_add hdone]
  exact runSteps_event_fail hlive hr rfl hbus rfl k

/-- `k` steps, before the failure, perform the first `k` events and leave the others pending (rule R193). -/
theorem runSteps_before_failure {k : Nat} (hk : k ≤ done.length) :
    ∃ answers, runSteps k s = .next (s.afterEvents (done.take k) (done.drop k ++ e :: rest) answers) := by
  have hsplit : s.seq = done.take k ++ (done.drop k ++ e :: rest) := by
    rw [hs, ← List.append_assoc, List.take_append_drop]
  have hanswers : s.answers = List.replicate (busCount (done.take k)) .ok
      ++ (List.replicate (busCount (done.drop k)) .ok ++ .fail :: more) := by
    rw [ha, ← List.append_assoc, ← List.replicate_add, ← busCount_append, List.take_append_drop]
  have hrun := runSteps_events_ok (done.take k) _ _ s hsplit (by simp [hs]) hf hr hanswers
  rw [List.length_take_of_le hk] at hrun
  exact ⟨_, hrun⟩

end

/-- Settles O41: `runSteps_failure` for the failing step and all later ones, `runSteps_before_failure` for those before. -/
theorem failureEndsTheSequence : Obligations.FailureEndsTheSequence := by
  intro done rest e s more hs hbus hf hr ha
  refine ⟨runSteps_failure hs hf hr ha hbus, fun k hk => ?_⟩
  obtain ⟨answers, hrun⟩ := runSteps_before_failure hs hf hr ha hk
  have hfsm := s.afterEvents_fsm_busy (done.take k) (rest := done.drop k ++ e :: rest) (by simp) answers
  refine ⟨_, hrun, ?_, ?_, rfl⟩
  · rw [← Bool.not_eq_true, State.fatal_iff, hfsm]
    exact hf
  · rw [hs, List.drop_append_of_le_length hk]
    rfl

/-! Runs. -/

/-- Every state that a run meets has the invariant, where its first one does (rules R201, R220). -/
theorem Run.inv {s t : State} (hrun : Run s t) (h : s.Inv) : t.Inv := by
  induction hrun with
  | start => exact h
  | step _ hstep ih => exact stepKeepsInvariant _ _ ih hstep
  | env _ hmove ih => exact hmove.inv ih
  | pulse _ ih => exact { ih with }

/-- Settles O50: the reset state has the invariant, a run keeps it, and a state that has it takes a next step. -/
theorem runKeepsInvariant : Obligations.RunKeepsInvariant := by
  intro t hrun
  have h : t.Inv := hrun.inv invariantAtReset
  exact ⟨h, invariantStepNeverStops t h⟩

end Sys2Proof.Machine
end

section
/-! The reset input (rules R34, R220), and the least duration of each request (rule R228). -/

namespace Sys2Proof.Machine

/-! Reset. -/

/-- Rule R31: an idle block in UNINIT with no fault recorded shows 0 in every field of STATUS. -/
theorem State.status_eq_zero {s : State} (hf : s.fsm = .uninit) (hs : s.seq = []) (hcause : s.faultCause = .none)
    (hbyte : s.faultByte = 0) : s.status = 0 := by
  rw [State.status, State.fatal, State.busy, hf, hs, hcause, hbyte]
  rfl

/-- Settles O42: `State.takeReset_cases` gives the state after the step, where the UNINIT rows of rule R82 hold. -/
theorem resetInput : Obligations.ResetInput := by
  intro s hr
  obtain ⟨n, tr, heq, htr⟩ := s.takeReset_cases
  have hfsm : s.takeReset.fsm = .uninit := by rw [heq]
  have hseq : s.takeReset.seq = [] := by rw [heq]
  have hcause : s.takeReset.faultCause = .none := by rw [heq]
  have hbyte : s.takeReset.faultByte = 0 := by rw [heq]
  have hport : s.takeReset.portReady = true := (State.portReady_iff _).mpr ⟨hseq, by simp [hfsm]⟩
  refine ⟨s.takeReset, step_reset hr, hfsm, by rw [heq], by rw [heq], hseq, by rw [heq], hcause, hbyte,
    s.takeReset_refused, hport, State.status_eq_zero hfsm hseq hcause hbyte, by rwa [heq], ?refused, ?accepted⟩
  case refused => exact fun i hi hb => exec_uninit_refused hi hb hfsm hseq
  case accepted => exact fun c r hg => ⟨_, exec_begin_accepted (.inl hfsm) hseq hg, rfl⟩

/-! Durations. -/

/-- The least times of two sequences performed one after the other add up (rule R228). -/
theorem seqMinMs_append (as bs : List Event) : seqMinMs (as ++ bs) = seqMinMs as + seqMinMs bs := by
  induction as with
  | nil => simp [seqMinMs]
  | cons e as ih => simp [seqMinMs, ih, Nat.add_assoc]

theorem seqMinMs_wait (k : WaitKind) : seqMinMs [.wait k] = waitMinMs k := rfl

/-- A nibble takes one settle delay (rule R101). -/
theorem seqMinMs_nib (v : Byte) (m : Mode) : seqMinMs (nib v m) = Config.tEnSettleMs := by
  simp [nib, seqMinMs, eventMinMs, waitMinMs]

/-- A command byte takes its wait of 2 ms and two settle delays (rule R103). -/
theorem seqMinMs_cmdEvents (b : Byte) : seqMinMs (cmdEvents b) = 2 + 2 * Config.tEnSettleMs := by
  simp only [cmdEvents, seqMinMs_append, seqMinMs_nib, seqMinMs_wait, waitMinMs]
  omega

/-- A data byte takes its wait of 1 ms and two settle delays (rule R104). -/
theorem seqMinMs_dataEvents (b : Byte) : seqMinMs (dataEvents b) = 1 + 2 * Config.tEnSettleMs := by
  simp only [dataEvents, seqMinMs_append, seqMinMs_nib, seqMinMs_wait, waitMinMs]
  omega

/-- Step (a) takes its three waits and three settle delays (rule R122). -/
theorem seqMinMs_stepA : seqMinMs stepA = 60 + 3 * Config.tEnSettleMs := by
  simp only [stepA, seqMinMs_append, seqMinMs_nib, seqMinMs_wait, waitMinMs]
  omega

/-- Step (b) takes its open wait and one settle delay (rule R123). -/
theorem seqMinMs_stepB : seqMinMs stepB = Config.t4BitMs + Config.tEnSettleMs := by
  simp only [stepB, seqMinMs_append, seqMinMs_nib, seqMinMs_wait, waitMinMs]
  omega

/-- The probe has no wait (rule R121). -/
theorem seqMinMs_probeStep (p : Bool) : seqMinMs (probeStep p) = 0 := by cases p <;> rfl

/-- The initialization takes steps (a) and (b) and five command bytes (rules R125, R228). -/
theorem seqMinMs_initSeq (p : Bool) : seqMinMs (initSeq p) = 70 + Config.t4BitMs + 14 * Config.tEnSettleMs := by
  simp only [initSeq, stepC, stepD, stepE, stepF, stepG, seqMinMs_append, seqMinMs_probeStep, seqMinMs_stepA,
    seqMinMs_stepB, seqMinMs_cmdEvents]
  omega

/-- The characters of a string take as long as one of them, times their number (rules R151, R228). -/
theorem seqMinMs_characters (t : Text) :
    seqMinMs (t.flatMap dataEvents) = t.length * (1 + 2 * Config.tEnSettleMs) := by
  induction t with
  | nil => simp [seqMinMs]
  | cons c t ih =>
    rw [List.flatMap_cons, seqMinMs_append, seqMinMs_dataEvents, ih, List.length_cons]
    ring

/-- Settles O47: each request's sequence is the one it loads, and the sums are those of its parts. -/
theorem minimumDurations : Obligations.MinimumDurations := by
  refine ⟨?begins, ?readyRequests, ?strings⟩
  case begins =>
    intro s t c r hs hf hg hx
    rw [exec_begin_accepted_seq hf hs hg hx, seqMinMs_initSeq]
  case readyRequests =>
    intro i s t hf hs hx
    cases i with
    | clear | home =>
      rw [acceptReady_ready_seq hf hs hx]
      exact seqMinMs_cmdEvents _
    | setCursor col row =>
      obtain ⟨c, r, -, rfl⟩ := loadSetCursor_next ((acceptRequest_ready _ _ hf hs).symm.trans hx)
      exact seqMinMs_cmdEvents _
    | putChar b =>
      rw [acceptReady_ready_seq hf hs hx]
      exact seqMinMs_dataEvents b
    | stringEnd =>
      rw [acceptReady_ready_seq hf hs hx]
      exact seqMinMs_wait .str
    | _ => trivial
  case strings =>
    intro t
    rw [seqMinMs_append, seqMinMs_characters, seqMinMs_wait, waitMinMs]

end Sys2Proof.Machine
end
